-- ==== Sys2Proof/Word.lean ====
section
/-! DEFINITION. The two widths of data the block moves (00_scope.md R7): the byte and the 32-bit word. -/

namespace Sys2Proof

/-- A byte, 8 bits (R7). -/
abbrev Byte := BitVec 8

/-- A word, `WORD_W` = 32 bits, the source's `u32` (R6, R7). -/
abbrev Word := BitVec 32

end Sys2Proof
end

