-- ==== Sys2Proof/Syntax.lean ====
section
/-! DEFINITION. The fourteen commands of the block (30_encoding.md R52), one constructor per row of
spec/opcode_table.json. No command has an operand field: every operand is implicit (R54). -/

namespace Sys2Proof

/-- A command of the block (R52). -/
inductive Instr where
  /-- `XXTEA_ENC` (R73). -/
  | xxteaEnc
  /-- `XXTEA_DEC` (R74). -/
  | xxteaDec
  /-- `CRC32` (R91). -/
  | crc32
  /-- `DEFLATE` (R101). -/
  | deflate
  /-- `INFLATE` (R102). -/
  | inflate
  /-- `PARSE_U32LE` (R140). -/
  | parseU32le
  /-- `WRITE_U32LE` (R141). -/
  | writeU32le
  /-- `B2W` (R142). -/
  | b2w
  /-- `W2B` (R143). -/
  | w2b
  /-- `REORDER` (R144). -/
  | reorder
  /-- `HEX_DEC` (R160). -/
  | hexDec
  /-- `HEX_ENC` (R161). -/
  | hexEnc
  /-- `A2B` (R162). -/
  | a2b
  /-- `B2A` (R163). -/
  | b2a
deriving DecidableEq, Repr

end Sys2Proof
end

