-- ==== Sys2Proof/Decode.lean ====
section
/-! DEFINITION. Decoding a value written to `CMD` (30_encoding.md R50 to R53, R55) and the encoder of a command. -/

namespace Sys2Proof

/-- Why a value of `CMD` selects no command (R53). Both raise `IllegalCommand`. -/
inductive DecodeError where
  /-- `RSV = CMD[31:8]` is not zero. -/
  | reservedBitsSet
  /-- `RSV` is zero and `OPCODE = CMD[7:0]` is none of the fourteen. -/
  | unassignedOpcode
deriving DecidableEq, Repr

/-- One row of the opcode map (R52). -/
structure OpcodeRow where
  mask : Word
  pattern : Word
  instr : Instr
deriving DecidableEq, Repr

/-- The opcode map of R52: the whole 32-bit value must equal the row's match, so every mask is all ones. -/
def opcodeMap : List OpcodeRow :=
  [ ⟨0xFFFFFFFF#32, 0x00000001#32, .xxteaEnc⟩,
    ⟨0xFFFFFFFF#32, 0x00000002#32, .xxteaDec⟩,
    ⟨0xFFFFFFFF#32, 0x00000010#32, .crc32⟩,
    ⟨0xFFFFFFFF#32, 0x00000020#32, .deflate⟩,
    ⟨0xFFFFFFFF#32, 0x00000021#32, .inflate⟩,
    ⟨0xFFFFFFFF#32, 0x00000030#32, .parseU32le⟩,
    ⟨0xFFFFFFFF#32, 0x00000031#32, .writeU32le⟩,
    ⟨0xFFFFFFFF#32, 0x00000032#32, .b2w⟩,
    ⟨0xFFFFFFFF#32, 0x00000033#32, .w2b⟩,
    ⟨0xFFFFFFFF#32, 0x00000034#32, .reorder⟩,
    ⟨0xFFFFFFFF#32, 0x00000040#32, .hexDec⟩,
    ⟨0xFFFFFFFF#32, 0x00000041#32, .hexEnc⟩,
    ⟨0xFFFFFFFF#32, 0x00000042#32, .a2b⟩,
    ⟨0xFFFFFFFF#32, 0x00000043#32, .b2a⟩ ]

/-- `CMD[7:0]` (R14, R50). -/
def opcodeField (c : Word) : BitVec 8 := c.extractLsb' 0 8

/-- `CMD[31:8]` (R14, R50). -/
def reservedField (c : Word) : BitVec 24 := c.extractLsb' 8 24

/-- The row a value selects: its match equals the value under the mask (R52). -/
def selectRow (c : Word) : Option OpcodeRow :=
  opcodeMap.find? fun row => decide (c &&& row.mask = row.pattern)

/-- The total decoder of R53: one of the fourteen commands, or a named rejection. -/
def decode (c : Word) : Except DecodeError Instr :=
  match selectRow c with
  | some row => .ok row.instr
  | none => if reservedField c = 0#24 then .error .unassignedOpcode else .error .reservedBitsSet

/-- `OPCODE` of each command (R52). -/
def opcodeOf : Instr → BitVec 8
  | .xxteaEnc => 0x01#8
  | .xxteaDec => 0x02#8
  | .crc32 => 0x10#8
  | .deflate => 0x20#8
  | .inflate => 0x21#8
  | .parseU32le => 0x30#8
  | .writeU32le => 0x31#8
  | .b2w => 0x32#8
  | .w2b => 0x33#8
  | .reorder => 0x34#8
  | .hexDec => 0x40#8
  | .hexEnc => 0x41#8
  | .a2b => 0x42#8
  | .b2a => 0x43#8

/-- The command word of format `C` (R50): `RSV = 0` above `OPCODE`. -/
def encode (i : Instr) : Word := 0#24 ++ opcodeOf i

/-- The instruction the decoder reads from an instruction of `nbits` bits with value `w`: the command is the one 32-bit
value written to `CMD` (R50); bits of `w` above `nbits` are zero. -/
def decodeTableWord (nbits w : Nat) : Option Instr :=
  let v := w % 2 ^ nbits
  if v < 2 ^ 32 then
    match decode (BitVec.ofNat 32 v) with
    | .ok i => some i
    | .error _ => none
  else none

end Sys2Proof
end

