-- ==== Sys2Proof/Config.lean ====
section
/-! DEFINITION. The parameters of the model (00_scope.md R6): what the spec leaves to an implementation, with the
defaults R6 gives, and the one free function (the bytes of an unnamed compressor, R101). -/

namespace Sys2Proof

/-- `XXTEA_YZ` (R80): which neighbour word `mix` calls `y` and which `z`. -/
inductive NeighbourOrder where
  /-- `y` is the next word, `z` the previous word (the default). -/
  | literal
  /-- `y` is the previous word, `z` the next word: standard XXTEA. -/
  | swapped
deriving DecidableEq, Repr

/-- `XXTEA_SHR` (R8, R71): the kind of right shift in `mix`. -/
inductive ShiftKind where
  | logical
  | arithmetic
deriving DecidableEq, Repr

/-- `XXTEA_D1` (R75): what the cipher does with exactly one word. -/
inductive OneWordRule where
  /-- The word passes through unchanged (the default). -/
  | identity
  /-- `ZeroWords`. -/
  | fault
deriving DecidableEq, Repr

/-- `DEFLATE_WRAP` (R100): the container around the deflate bit stream. -/
inductive DeflateWrap where
  | zlib
  | raw
  | gzip
deriving DecidableEq, Repr

/-- `DEFLATE_FN` (R6, R101): the compressor's choice of output. A function is held by its values, as data (log entry 5). -/
inductive Compressor where
  /-- The stored-block encoder of R104 (the default). -/
  | stored
  /-- A function given by the caller: its values at the inputs listed (the first row of an input counts), the stored-block encoder
  elsewhere (log entry 5). -/
  | given (values : List (List Byte × List Byte))
  /-- A function of which nothing is known but R101; its bytes are the free value `Config.libraryBytes` (log entry 5). -/
  | library
deriving DecidableEq, Repr

/-- The seven parameters of R6 that are not fixed by the source. -/
structure Config where
  /-- `BUF_MAX`; `none` is `unbounded`. -/
  bufMax : Option Nat
  /-- `XXTEA_YZ`. -/
  xxteaYZ : NeighbourOrder
  /-- `XXTEA_SHR`. -/
  xxteaShr : ShiftKind
  /-- `XXTEA_D1`. -/
  xxteaD1 : OneWordRule
  /-- `DEFLATE_WRAP`. -/
  deflateWrap : DeflateWrap
  /-- `DEFLATE_FN`. -/
  deflateFn : Compressor
  /-- `CHAR_W`, at least 8 (`Config.wellFormed`). -/
  charW : Nat
deriving DecidableEq, Repr

/-- The defaults of R6. -/
def Config.default : Config where
  bufMax := none
  xxteaYZ := .literal
  xxteaShr := .logical
  xxteaD1 := .identity
  deflateWrap := .zlib
  deflateFn := .stored
  charW := 16

/-- FREE VALUE (R101, U8; log entry 5): the bytes an unnamed compressor offers for an input. Nothing is known of them.
`deflateFn` in Machine/Deflate.lean uses them only where they satisfy R101 (b). -/
opaque Config.libraryBytes : DeflateWrap → List Byte → List Byte

end Sys2Proof
end

