-- ==== Sys2Proof/Machine/HostAction.lean ====
section
/-! DEFINITION. What the host can do between commands (10_state.md R22; 30_encoding.md R56, R57;
70_reset_and_hazards.md R240). Reads have no side effect (20_memory.md R37) and are no action; the host cannot write
`OUT` (R16), so there is no action for it. -/

namespace Sys2Proof.Machine

/-- One action of the host (R22, R56, R57, R240). -/
inductive HostAction where
  /-- `IN <- bytes`: content and length. -/
  | writeIn (content : List Byte)
  /-- `KEY <- bytes`. -/
  | writeKey (content : List Byte)
  /-- `WRD <- words`. -/
  | writeWrd (content : List Word)
  /-- `TXT <- characters`, each by its code (R19). -/
  | writeTxt (content : List Nat)
  /-- `OFFSET <- n`. -/
  | writeOffset (v : Word)
  /-- `VALUE <- n`. -/
  | writeValue (v : Word)
  /-- A write to `CMD`: starts exactly one command (R14, R51). -/
  | writeCmd (c : Word)
  /-- A write to `STATUS`, which is read-only to the host: ignored (R15). -/
  | writeStatus (v : Word)
  /-- `IN <- OUT ++ tail`; with an empty tail the plain `IN <- OUT` (R57). -/
  | copyOutToIn (tail : List Byte)
  /-- `IN <- IN ++ tail` (R57). -/
  | appendIn (tail : List Byte)
  /-- `KEY <- OUT` (R57). -/
  | copyOutToKey
  /-- Reset, an event from outside the block (R240). -/
  | reset
deriving DecidableEq, Repr

end Sys2Proof.Machine
end

