-- ==== Sys2Proof/WellFormed.lean ====
section
/-! DEFINITION. What is well formed: a configuration (R6), a command (R54), a content that fits a buffer (10_state.md R25),
a character (R19), and a host action (R22, R25). -/

namespace Sys2Proof

/-- R6: `CHAR_W` is at least 8. -/
def Config.wellFormed (cfg : Config) : Bool := decide (8 ≤ cfg.charW)

/-- R25: a buffer holds at most `BUF_MAX` elements; unbounded holds any finite number. -/
def Config.fits (cfg : Config) (n : Nat) : Bool :=
  match cfg.bufMax with
  | none => true
  | some m => decide (n ≤ m)

/-- R19: a character is an unsigned value of `CHAR_W` bits. -/
def Config.isChar (cfg : Config) (c : Nat) : Bool := decide (c < 2 ^ cfg.charW)

/-- A content of `TXT`: within the capacity, every element a character (R19, R25). -/
def Config.isText (cfg : Config) (t : List Nat) : Bool := cfg.fits t.length && t.all cfg.isChar

/-- R54: a command has no operand, so every command is well formed; one line per constructor, so that a new
constructor cannot slip past. -/
def Instr.wellFormed : Instr → Bool
  | .xxteaEnc => true
  | .xxteaDec => true
  | .crc32 => true
  | .deflate => true
  | .inflate => true
  | .parseU32le => true
  | .writeU32le => true
  | .b2w => true
  | .w2b => true
  | .reorder => true
  | .hexDec => true
  | .hexEnc => true
  | .a2b => true
  | .b2a => true

/-- R22, R25: a content the action itself carries fits the buffer it is for. (What `copyOutToIn` and `appendIn` write depends
on the state too: Machine/HostPort.lean checks the whole content.) -/
def Machine.HostAction.wellFormed (cfg : Config) : Machine.HostAction → Bool
  | .writeIn b => cfg.fits b.length
  | .writeKey b => cfg.fits b.length
  | .writeWrd w => cfg.fits w.length
  | .writeTxt t => cfg.isText t
  | .writeOffset _ => true
  | .writeValue _ => true
  | .writeCmd _ => true
  | .writeStatus _ => true
  | .copyOutToIn tail => cfg.fits tail.length
  | .appendIn tail => cfg.fits tail.length
  | .copyOutToKey => true
  | .reset => true

end Sys2Proof
end

