-- ==== Sys2Proof/Machine/State.lean ====
section
/-! DEFINITION. The state of the block (10_state.md R11: eleven items "and nothing else"), beside it the configuration (R6)
and the host's pending actions (R12), the fault causes of the block (60_exceptions.md R210), and how the model can stop. -/

namespace Sys2Proof.Machine

/-- The seven faults of the block (R210). Raising one is a NEXT state (`takeFault`, R214). -/
inductive Cause where
  | illegalCommand
  | outOfRange
  | keyTooShort
  | zeroWords
  | malformedStream
  | badDigit
  | overflow
deriving DecidableEq, Repr

/-- How the model stops. The block itself never stops ("every command from every state ends in success or in a fault",
93_implementation_defined.md part 1); these two say that a script asks the host to do what the spec says it cannot. -/
inductive Fault where
  /-- Raised by a host write of a content longer than `BUF_MAX`: elements that do not exist (R25). Safe: no state follows. -/
  | hostContentTooLong
  /-- Raised by a host write to `TXT` of a value that is no character of `CHAR_W` bits (R19). Safe: no state follows. -/
  | hostNotACharacter
deriving DecidableEq, Repr

/-- What the model declines to run. Every command has its meaning, so no step raises it. -/
inductive Refusal where
  /-- Raised by an arm of `exec` that has no meaning yet; there is none. Safe: no state follows. -/
  | notModelled (mnemonic : String)
deriving DecidableEq, Repr

/-- The machine's state. -/
structure State where
  /-- `IN` (R16). -/
  inBuf : List Byte
  /-- `KEY` (R17). -/
  keyBuf : List Byte
  /-- `OUT` (R16). -/
  outBuf : List Byte
  /-- `WRD` (R18). -/
  wrdBuf : List Word
  /-- `TXT`, each character by its code (R19). -/
  txtBuf : List Nat
  /-- `OFFSET` (R13). -/
  offset : Word
  /-- `VALUE` (R13). -/
  value : Word
  /-- `CMD` (R14). -/
  cmd : Word
  /-- `STATUS.CODE` (R15). -/
  code : BitVec 8
  /-- `STATUS.VALID` (R15). -/
  valid : Bool
  /-- `STATUS.STICKY` (R15). -/
  sticky : Bool
  /-- The MODEL's own field: the parameters of R6, fixed for the machine (log entry 2). -/
  cfg : Config
  /-- The MODEL's own field: the host's pending actions, oldest first (R12; log entry 1). -/
  script : List HostAction
deriving DecidableEq, Repr

/-- The buffers hold what they can (R19, R25): each within `BUF_MAX`, each character of `TXT` within `CHAR_W` bits. A list is the one
canonical form of a finite sequence, so nothing else is to say of the block's storage (20_memory.md R30; log entry 3). -/
def Memory.wf (s : State) : Bool :=
  s.cfg.fits s.inBuf.length && s.cfg.fits s.keyBuf.length && s.cfg.fits s.outBuf.length &&
    s.cfg.fits s.wrdBuf.length && s.cfg.isText s.txtBuf

/-- The machine right after reset under a given configuration (R23, R240), no host action pending. -/
def State.resetWith (cfg : Config) : State where
  inBuf := []
  keyBuf := []
  outBuf := []
  wrdBuf := []
  txtBuf := []
  offset := 0#32
  value := 0#32
  cmd := 0#32
  code := 0#8
  valid := false
  sticky := false
  cfg := cfg
  script := []

/-- The machine right after reset (R23, R240) with the default parameters of R6. -/
def State.reset : State := State.resetWith Config.default

/-- Replace `IN`, content and length (R22). -/
def State.setIn (s : State) (b : List Byte) : State := { s with inBuf := b }

/-- Replace `KEY`, content and length (R22). -/
def State.setKey (s : State) (b : List Byte) : State := { s with keyBuf := b }

/-- Replace `OUT`, content and length (R16). -/
def State.setOut (s : State) (b : List Byte) : State := { s with outBuf := b }

/-- Replace `WRD`, content and length (R18). -/
def State.setWrd (s : State) (w : List Word) : State := { s with wrdBuf := w }

/-- Replace `TXT`, content and length (R19). -/
def State.setTxt (s : State) (t : List Nat) : State := { s with txtBuf := t }

/-- Write `OFFSET` (R13). -/
def State.setOffset (s : State) (v : Word) : State := { s with offset := v }

/-- Write `VALUE` (R13). -/
def State.setValue (s : State) (v : Word) : State := { s with value := v }

/-- Write `CMD` (R14). -/
def State.setCmd (s : State) (c : Word) : State := { s with cmd := c }

/-- Write the three fields of `STATUS` (R15). -/
def State.setStatus (s : State) (code : BitVec 8) (valid sticky : Bool) : State :=
  { s with code := code, valid := valid, sticky := sticky }

/-- Replace the host's pending actions. -/
def State.setScript (s : State) (as : List HostAction) : State := { s with script := as }

end Sys2Proof.Machine
end

