-- ==== Sys2Proof/Machine/Flags.lean ====
section
/-! DEFINITION. The outcome bits. The block has no condition flags (10_state.md R20); its only outcome bits are the fields of
`STATUS` (R15), with the fault codes of 60_exceptions.md R210. -/

namespace Sys2Proof.Machine

/-- The code of a fault, the value put in `STATUS.CODE` (R210). -/
def causeCode : Cause → BitVec 8
  | .illegalCommand => 1#8
  | .outOfRange => 2#8
  | .keyTooShort => 3#8
  | .zeroWords => 4#8
  | .malformedStream => 5#8
  | .badDigit => 6#8
  | .overflow => 7#8

/-- The code of success, `OK` (R210). -/
def okCode : BitVec 8 := 0#8

/-- The 32-bit register `STATUS` as the host reads it (R15): `CODE` in bits 7:0, `VALID` in bit 8, `STICKY` in bit 9,
bits 31:10 zero. -/
def statusWord (s : State) : Word :=
  0#22 ++ BitVec.ofBool s.sticky ++ BitVec.ofBool s.valid ++ s.code

end Sys2Proof.Machine
end

