-- ==== Sys2Proof/Machine/Operands.lean ====
section
/-! DEFINITION. The operand forms. Every operand is an implicit buffer or register (30_encoding.md R54); what is shared is the
access to a part of a buffer (00_scope.md R9; 20_memory.md R30, R36), the assembly of words from bytes (R9, R31, R32, R34)
and the grouping of a buffer by four bytes (R35). -/

namespace Sys2Proof.Machine

/-- `MemRead(B, i, n)`: elements `B[i..i+n)`, defined only when `i + n ≤ len(B)` (R9). -/
def memRead {α : Type} (b : List α) (i n : Nat) : List α := (b.drop i).take n

/-- `MemWrite(B, i, n, v)`: replace elements `B[i..i+n)` by the `n` elements of `v` (R9). -/
def memWrite {α : Type} (b : List α) (i : Nat) (v : List α) : List α :=
  b.take i ++ v ++ b.drop (i + v.length)

/-- The bound check of `PARSE_U32LE` and `WRITE_U32LE`: `OFFSET + 4 ≤ len(IN)` in unbounded naturals (R36). -/
def offsetInRange (s : State) : Bool := decide (s.offset.toNat + 4 ≤ s.inBuf.length)

/-- `le32(b0,b1,b2,b3)`: a word from four bytes, least significant first (R9, R31). -/
def le32 (b0 b1 b2 b3 : Byte) : Word :=
  BitVec.ofNat 32 (b0.toNat + 256 * b1.toNat + 65536 * b2.toNat + 16777216 * b3.toNat)

/-- `be32(b0,b1,b2,b3)`: a word from four bytes, most significant first (43_deflate.md R106). -/
def be32 (b0 b1 b2 b3 : Byte) : Word :=
  BitVec.ofNat 32 (16777216 * b0.toNat + 65536 * b1.toNat + 256 * b2.toNat + b3.toNat)

/-- `bytes_le32(w)`: least significant byte first (R9, R31). -/
def bytesLe32 (w : Word) : List Byte :=
  [w.extractLsb' 0 8, w.extractLsb' 8 8, w.extractLsb' 16 8, w.extractLsb' 24 8]

/-- `bytes_be32(w)`: most significant byte first (R9, R32). -/
def bytesBe32 (w : Word) : List Byte :=
  [w.extractLsb' 24 8, w.extractLsb' 16 8, w.extractLsb' 8 8, w.extractLsb' 0 8]

/-- `le16(n) = [n[7:0], n[15:8]]` (43_deflate.md R104). -/
def bytesLe16 (n : Nat) : List Byte := [BitVec.ofNat 8 n, BitVec.ofNat 8 (n / 256)]

/-- `words_le(b)`: every four bytes from index 0 a little-endian word; a remainder below four bytes is dropped
(R34, R35; 44_byte_order.md R142). -/
def wordsLe : List Byte → List Word
  | b0 :: b1 :: b2 :: b3 :: rest => le32 b0 b1 b2 b3 :: wordsLe rest
  | _ => []

/-- `bytes_le(w)`: the words' little-endian bytes in order (41_xxtea.md R70; 44_byte_order.md R143). -/
def bytesLe (ws : List Word) : List Byte := ws.flatMap bytesLe32

/-- The word `PARSE_U32LE` reads: `le32(B[i], B[i+1], B[i+2], B[i+3])` (R140). Used only where `i + 4 ≤ len(B)`. -/
def wordAt (b : List Byte) (i : Nat) : Word :=
  le32 (b.getD i 0#8) (b.getD (i + 1) 0#8) (b.getD (i + 2) 0#8) (b.getD (i + 3) 0#8)

/-- `REORDER` on a buffer: every complete byte group reversed, a shorter tail kept (44_byte_order.md R144). -/
def reorderGroups : List Byte → List Byte
  | b0 :: b1 :: b2 :: b3 :: rest => b3 :: b2 :: b1 :: b0 :: reorderGroups rest
  | tail => tail

end Sys2Proof.Machine
end

