-- ==== Sys2Proof/Machine/Ops.lean ====
section
/-! DEFINITION. The shared operations: taking a fault (60_exceptions.md R214), normal completion (R215), the end of a
command that yields a result for one buffer or register (10_state.md R16, R25; R213), and reset (R240). There is no
return from a fault (R216). -/

namespace Sys2Proof.Machine

/-- What a step answers. -/
abbrev StepOutcome := Host.Outcome State Fault Refusal

/-- Fault entry (R214): `CODE` is the cause's code, `VALID` and `STICKY` are set, nothing else changes. -/
def takeFault (c : Cause) (s : State) : State := s.setStatus (causeCode c) true true

/-- Normal completion (R215): `CODE` is 0, `VALID` is set, `STICKY` keeps its value. -/
def complete (s : State) : State := s.setStatus okCode true s.sticky

/-- The end of a command whose result is for `OUT`: a fault of its own checks; else `Overflow`, tested on the finished
result (R213, R25); else the whole of `OUT` is replaced (R16). -/
def finishOut (r : Except Cause (List Byte)) (s : State) : StepOutcome :=
  match r with
  | .error c => .next (takeFault c s)
  | .ok v => if s.cfg.fits v.length then .next (complete (s.setOut v)) else .next (takeFault .overflow s)

/-- The end of a command whose result is for `WRD` (R18, R213, R25). -/
def finishWrd (r : Except Cause (List Word)) (s : State) : StepOutcome :=
  match r with
  | .error c => .next (takeFault c s)
  | .ok v => if s.cfg.fits v.length then .next (complete (s.setWrd v)) else .next (takeFault .overflow s)

/-- The end of a command whose result is for `TXT` (R19, R213, R25). -/
def finishTxt (r : Except Cause (List Nat)) (s : State) : StepOutcome :=
  match r with
  | .error c => .next (takeFault c s)
  | .ok v => if s.cfg.fits v.length then .next (complete (s.setTxt v)) else .next (takeFault .overflow s)

/-- The end of a command whose result is for `VALUE` (R13, R213). -/
def finishValue (r : Except Cause Word) (s : State) : StepOutcome :=
  match r with
  | .error c => .next (takeFault c s)
  | .ok v => .next (complete (s.setValue v))

/-- Reset (R240, R23): every item of the block's state at its reset value; the parameters and what the host will do
next are not the block's state and stay. -/
def resetItems (s : State) : State := (State.resetWith s.cfg).setScript s.script

end Sys2Proof.Machine
end

