-- ==== Sys2Proof/Machine/ByteOrder.lean ====
section
/-! DEFINITION. The byte-order commands (44_byte_order.md R140 to R146). -/

namespace Sys2Proof.Machine

/-- The word `PARSE_U32LE` yields, or `OutOfRange` (R140). -/
def parseResult (s : State) : Except Cause Word :=
  if offsetInRange s then .ok (wordAt s.inBuf s.offset.toNat) else .error .outOfRange

/-- The bytes `WRITE_U32LE` yields, or `OutOfRange` (R141). -/
def writeResult (s : State) : Except Cause (List Byte) :=
  if offsetInRange s then .ok (memWrite s.inBuf s.offset.toNat (bytesLe32 s.value)) else .error .outOfRange

/-- `PARSE_U32LE` (R140): reads `IN`, `OFFSET`; writes `VALUE`. -/
def execParseU32le (s : State) : StepOutcome := finishValue (parseResult s) s

/-- `WRITE_U32LE` (R141): reads `IN`, `OFFSET`, `VALUE`; writes `OUT`, a changed copy of `IN`. -/
def execWriteU32le (s : State) : StepOutcome := finishOut (writeResult s) s

/-- `B2W` (R142): reads `IN`; writes `WRD`. -/
def execB2w (s : State) : StepOutcome := finishWrd (.ok (wordsLe s.inBuf)) s

/-- `W2B` (R143): reads `WRD`; writes `OUT`. -/
def execW2b (s : State) : StepOutcome := finishOut (.ok (bytesLe s.wrdBuf)) s

/-- `REORDER` (R144): reads `IN`; writes `OUT`. -/
def execReorder (s : State) : StepOutcome := finishOut (.ok (reorderGroups s.inBuf)) s

end Sys2Proof.Machine
end

