-- ==== Sys2Proof/Machine/Checksum.lean ====
section
/-! DEFINITION. The checksum command `CRC32` (42_crc32.md R90 to R94) and Adler-32, the checksum of the zlib wrapper
(43_deflate.md R106). -/

namespace Sys2Proof.Machine

/-- The reflected polynomial `0xEDB88320` (R90). -/
def crcPolynomial : Word := 0xEDB88320#32

/-- One shift step of P90. -/
def crcShift (r : Word) : Word :=
  if r.getLsbD 0 then (r >>> 1) ^^^ crcPolynomial else r >>> 1

/-- `n` shift steps of P90. -/
def crcShifts : Nat → Word → Word
  | 0, r => r
  | n + 1, r => crcShifts n (crcShift r)

/-- One byte of P90: `r <- r XOR zext_32(v)`, then eight shift steps. -/
def crcByte (r : Word) (v : Byte) : Word := crcShifts 8 (r ^^^ v.setWidth 32)

/-- `crc(data)`, CRC-32/ISO-HDLC (R90, block P90). -/
def crcOf (data : List Byte) : Word := data.foldl crcByte 0xFFFFFFFF#32 ^^^ 0xFFFFFFFF#32

/-- One byte of Adler-32 on the pair `(s1, s2)` (R106). -/
def adlerByte (a : Nat × Nat) (v : Byte) : Nat × Nat :=
  ((a.1 + v.toNat) % 65521, (a.2 + (a.1 + v.toNat) % 65521) % 65521)

/-- The pair `(s1, s2)` as a word: `(s2 << 16) OR s1` (R106). -/
def adlerWord (a : Nat × Nat) : Word := (BitVec.ofNat 32 a.2 <<< 16) ||| BitVec.ofNat 32 a.1

/-- `adler32(x)` (R106). -/
def adler32 (x : List Byte) : Word := adlerWord (x.foldl adlerByte (1, 0))

/-- `CRC32` (R91): reads `IN`; writes `OUT`, the four bytes most significant first. -/
def execCrc32 (s : State) : StepOutcome := finishOut (.ok (bytesBe32 (crcOf s.inBuf))) s

end Sys2Proof.Machine
end

