-- ==== Sys2Proof/Machine/Cipher.lean ====
section
/-! DEFINITION. The cipher commands `XXTEA_ENC` and `XXTEA_DEC` (41_xxtea.md R70 to R82). -/

namespace Sys2Proof.Machine

/-- `DELTA = 0x9E3779B9` (R72). -/
def xxteaDelta : Word := 0x9E3779B9#32

/-- `rounds = 6 + (52 div d)` (R72), formed for `d ≥ 2` only. -/
def xxteaRounds (d : Nat) : Nat := 6 + 52 / d

/-- `>>` inside `mix`: logical or arithmetic by `XXTEA_SHR` (R8, R71). -/
def shiftRight (k : ShiftKind) (a : Word) (n : Nat) : Word :=
  match k with
  | .logical => a >>> n
  | .arithmetic => a.sshiftRight n

/-- `e = (sum >>L 2) AND 3 = sum[3:2]` (R72). -/
def sumIndex (sum : Word) : Nat := (sum.extractLsb' 2 2).toNat

/-- The key word `mix` uses at position `p`: `g[(p AND 3) XOR e]` (R71). -/
def keyWord (g : List Word) (p e : Nat) : Word := g.getD ((p &&& 3) ^^^ e) 0#32

/-- `mix(y, z, sum, p, e)` (R71). -/
def mix (k : ShiftKind) (g : List Word) (y z sum : Word) (p e : Nat) : Word :=
  ((shiftRight k y 5 ^^^ (z <<< 2)) + (shiftRight k z 3 ^^^ (y <<< 4))) ^^^
    ((sum ^^^ z) + (keyWord g p e ^^^ y))

/-- `nxt = s[(p + 1) mod d]`, current content (R80). -/
def nextWord (s : List Word) (p : Nat) : Word := s.getD ((p + 1) % s.length) 0#32

/-- `prv = s[(p - 1 + d) mod d]`, current content (R80). -/
def prevWord (s : List Word) (p : Nat) : Word := s.getD ((p + s.length - 1) % s.length) 0#32

/-- The `mix` value of position `p` in the array as it stands: the neighbours taken as `y`, `z` by `XXTEA_YZ` (R80). -/
def mixAt (cfg : Config) (g : List Word) (sum : Word) (s : List Word) (p : Nat) : Word :=
  match cfg.xxteaYZ with
  | .literal => mix cfg.xxteaShr g (nextWord s p) (prevWord s p) sum p (sumIndex sum)
  | .swapped => mix cfg.xxteaShr g (prevWord s p) (nextWord s p) sum p (sumIndex sum)

/-- `s[p] <- s[p] +32 mix(...)` (P73). -/
def encPosition (cfg : Config) (g : List Word) (sum : Word) (s : List Word) (p : Nat) : List Word :=
  s.set p (s.getD p 0#32 + mixAt cfg g sum s p)

/-- `s[p] <- s[p] -32 mix(...)` (P74). -/
def decPosition (cfg : Config) (g : List Word) (sum : Word) (s : List Word) (p : Nat) : List Word :=
  s.set p (s.getD p 0#32 - mixAt cfg g sum s p)

/-- One forward sweep, `p = 0, 1, ..., d-1` (P73). -/
def encSweep (cfg : Config) (g : List Word) (sum : Word) (s : List Word) : List Word :=
  (List.range s.length).foldl (encPosition cfg g sum) s

/-- One backward sweep, `p = d-1, d-2, ..., 0` (P74). -/
def decSweep (cfg : Config) (g : List Word) (sum : Word) (s : List Word) : List Word :=
  (List.range s.length).reverse.foldl (decPosition cfg g sum) s

/-- The rounds of P73: `sum` is advanced before the sweep of its round. -/
def encRounds (cfg : Config) (g : List Word) : Nat → Word → List Word → List Word
  | 0, _, s => s
  | n + 1, sum, s => encRounds cfg g n (sum + xxteaDelta) (encSweep cfg g (sum + xxteaDelta) s)

/-- The rounds of P74: `sum` goes back after the sweep of its round. -/
def decRounds (cfg : Config) (g : List Word) : Nat → Word → List Word → List Word
  | 0, _, s => s
  | n + 1, sum, s => decRounds cfg g n (sum - xxteaDelta) (decSweep cfg g sum s)

/-- Block P73 on the word array: `sum` starts at 0. -/
def encryptWords (cfg : Config) (g s : List Word) : List Word :=
  encRounds cfg g (xxteaRounds s.length) 0#32 s

/-- Block P74 on the word array: `sum` starts at `rounds *32 DELTA`. -/
def decryptWords (cfg : Config) (g s : List Word) : List Word :=
  decRounds cfg g (xxteaRounds s.length) (BitVec.ofNat 32 (xxteaRounds s.length) * xxteaDelta) s

/-- The key words `g = words_le(KEY[0..16))` (R70). -/
def keyWords (key : List Byte) : List Word := wordsLe (memRead key 0 16)

/-- What both cipher commands do around their rounds, the checks in the order of R73: empty input (R77), key length (R78),
no word (R76), one word (R75), else the rounds. -/
def cipherResult (rounds : List Word → List Word → List Word) (cfg : Config) (data key : List Byte) :
    Except Cause (List Byte) :=
  if data.length = 0 then .ok []
  else if key.length < 16 then .error .keyTooShort
  else if data.length / 4 = 0 then .error .zeroWords
  else if data.length / 4 = 1 then
    match cfg.xxteaD1 with
    | .identity => .ok (memRead data 0 4)
    | .fault => .error .zeroWords
  else .ok (bytesLe (rounds (keyWords key) (wordsLe data)))

/-- The result of `XXTEA_ENC` (R73). -/
def encryptResult (cfg : Config) (data key : List Byte) : Except Cause (List Byte) :=
  cipherResult (encryptWords cfg) cfg data key

/-- The result of `XXTEA_DEC` (R74). -/
def decryptResult (cfg : Config) (data key : List Byte) : Except Cause (List Byte) :=
  cipherResult (decryptWords cfg) cfg data key

/-- `XXTEA_ENC` (R73): reads `IN`, `KEY`; writes `OUT`. -/
def execXxteaEnc (s : State) : StepOutcome := finishOut (encryptResult s.cfg s.inBuf s.keyBuf) s

/-- `XXTEA_DEC` (R74): reads `IN`, `KEY`; writes `OUT`. -/
def execXxteaDec (s : State) : StepOutcome := finishOut (decryptResult s.cfg s.inBuf s.keyBuf) s

end Sys2Proof.Machine
end

