-- ==== Sys2Proof/Machine/Bits.lean ====
section
/-! DEFINITION. The bit reader of the deflate stream (43_deflate.md R107). The position `bitpos` in a byte sequence is held as
the bytes not yet wholly read and the number of bits already read of the first of them; Laws and Obligations relate it to
R107's `b[n div 8][n mod 8]`. -/

namespace Sys2Proof.Machine

/-- A reading position (R107): `rest` is the input from the byte of `bitpos` on, `used = bitpos mod 8`. -/
structure BitReader where
  rest : List Byte
  used : Nat
deriving DecidableEq, Repr

/-- The reader at bit 0 of a byte sequence. -/
def readerAt (b : List Byte) : BitReader := ⟨b, 0⟩

/-- `bit()` (R107): least significant bit of a byte first; `none` where the stream is truncated. -/
def readBit (r : BitReader) : Option (Bool × BitReader) :=
  match r.rest with
  | [] => none
  | b :: bs => some (b.getLsbD r.used, if r.used = 7 then ⟨bs, 0⟩ else ⟨b :: bs, r.used + 1⟩)

/-- `bits(n)` (R107): the first bit read is the least significant. -/
def readBits : Nat → BitReader → Option (Nat × BitReader)
  | 0, r => some (0, r)
  | n + 1, r =>
    match readBit r with
    | none => none
    | some (b, r1) =>
      match readBits n r1 with
      | none => none
      | some (v, r2) => some (b.toNat + 2 * v, r2)

/-- `bitpos <- 8 * ceil(bitpos / 8)` (R105, R109). -/
def alignReader (r : BitReader) : BitReader := if r.used = 0 then r else ⟨r.rest.tail, 0⟩

/-- The next `n` bytes, each `bits(8)` (R109). -/
def readBytes : Nat → BitReader → Option (List Byte × BitReader)
  | 0, r => some ([], r)
  | n + 1, r =>
    match readBits 8 r with
    | none => none
    | some (v, r1) =>
      match readBytes n r1 with
      | none => none
      | some (vs, r2) => some (BitVec.ofNat 8 v :: vs, r2)

/-- Bits left to read: a bound on every loop over the stream (70_reset_and_hazards.md R256). -/
def bitsLeft (r : BitReader) : Nat := 8 * r.rest.length - r.used

end Sys2Proof.Machine
end

