-- ==== Sys2Proof/Machine/Huffman.lean ====
section
/-! DEFINITION. Huffman codes from code lengths (43_deflate.md R110, R111). -/

namespace Sys2Proof.Machine

/-- The codes of one length: consecutive values from `first`, one for each symbol of that length in increasing order (R110). -/
structure CodeLevel where
  first : Nat
  syms : List Nat
deriving DecidableEq, Repr

/-- The symbols whose code length is `l`, in increasing order; `count[l]` is how many they are (R110). -/
def symbolsOfLength (lens : List Nat) (l : Nat) : List Nat :=
  (lens.zipIdx.filter fun e => e.1 == l).map Prod.snd

/-- Levels `l, l+1, ...`, `n` of them: `first[l+1] = (first[l] + count[l]) * 2` (R110). -/
def codeLevelsFrom (lens : List Nat) : Nat → Nat → Nat → List CodeLevel
  | 0, _, _ => []
  | n + 1, l, first =>
    ⟨first, symbolsOfLength lens l⟩ ::
      codeLevelsFrom lens n (l + 1) ((first + (symbolsOfLength lens l).length) * 2)

/-- The code of a list of code lengths: levels 1 to 15, `first[1] = 0` (R110). -/
def codeOf (lens : List Nat) : List CodeLevel := codeLevelsFrom lens 15 1 0

/-- `decode(code)` (R110) from the levels not yet tried, with the code bits read so far: one more bit, most significant first;
the symbol of this length with that code value, if any; `none` where no level matches or the input ends. -/
def decodeSymbol : List CodeLevel → Nat → BitReader → Option (Nat × BitReader)
  | [], _, _ => none
  | lv :: levels, c, r =>
    match readBit r with
    | none => none
    | some (b, r1) =>
      if lv.first ≤ 2 * c + b.toNat then
        match lv.syms[2 * c + b.toNat - lv.first]? with
        | some sym => some (sym, r1)
        | none => decodeSymbol levels (2 * c + b.toNat) r1
      else decodeSymbol levels (2 * c + b.toNat) r1

/-- The Kraft sum: `2^(15 - L[i])` over the used symbols (R110). -/
def kraftSum (lens : List Nat) : Nat := (lens.map fun l => if l = 0 then 0 else 2 ^ (15 - l)).sum

/-- Exactly one symbol is used and its length is 1: the first exception of R110. -/
def singleUnitCode (lens : List Nat) : Bool := decide (lens.filter (fun l => decide (l ≠ 0)) = [1])

/-- No symbol is used: the second exception of R110, for a distance code. -/
def emptyCode (lens : List Nat) : Bool := lens.all fun l => decide (l = 0)

/-- A complete code (R110). -/
def completeCode (lens : List Nat) : Bool := decide (kraftSum lens = 2 ^ 15)

/-- The literal/length lengths that R110 accepts. -/
def litLengthsOk (lens : List Nat) : Bool := completeCode lens || singleUnitCode lens

/-- The distance lengths that R110 accepts. -/
def distLengthsOk (lens : List Nat) : Bool := completeCode lens || singleUnitCode lens || emptyCode lens

/-- The fixed literal/length code lengths (R111). -/
def fixedLitLengths : List Nat :=
  List.replicate 144 8 ++ List.replicate 112 9 ++ List.replicate 24 7 ++ List.replicate 8 8

/-- The fixed distance code lengths (R111). -/
def fixedDistLengths : List Nat := List.replicate 32 5

end Sys2Proof.Machine
end

