-- ==== Sys2Proof/Machine/Inflate.lean ====
section
/-! DEFINITION. Inflating a stream (43_deflate.md R102, R105 to R117). Every failure is `none`: the one fault `MalformedStream`,
which records no cause (R116). The output produced so far is held newest byte first, so that `out[len(out) - dist]` of R114
is element `dist - 1`. -/

namespace Sys2Proof.Machine

/-- `(LEXT[S], LBASE[S])` for `S = 257 .. 285` (R113). -/
def lengthTable : List (Nat × Nat) :=
  [(0, 3), (0, 4), (0, 5), (0, 6), (0, 7), (0, 8), (0, 9), (0, 10), (1, 11), (1, 13)] ++
  [(1, 15), (1, 17), (2, 19), (2, 23), (2, 27), (2, 31), (3, 35), (3, 43), (3, 51), (3, 59)] ++
  [(4, 67), (4, 83), (4, 99), (4, 115), (5, 131), (5, 163), (5, 195), (5, 227), (0, 258)]

/-- `(DEXT[T], DBASE[T])` for `T = 0 .. 29` (R113). -/
def distanceTable : List (Nat × Nat) :=
  [(0, 1), (0, 2), (0, 3), (0, 4), (1, 5), (1, 7), (2, 9), (2, 13), (3, 17), (3, 25)] ++
  [(4, 33), (4, 49), (5, 65), (5, 97), (6, 129), (6, 193), (7, 257), (7, 385), (8, 513), (8, 769)] ++
  [(9, 1025), (9, 1537), (10, 2049), (10, 3073), (11, 4097), (11, 6145), (12, 8193), (12, 12289),
    (13, 16385), (13, 24577)]

/-- The value of table row `i`: its base plus its extra bits (R113); `none` past the end of the table. -/
def readExtra (table : List (Nat × Nat)) (i : Nat) (r : BitReader) : Option (Nat × BitReader) :=
  match table[i]? with
  | none => none
  | some (ext, base) =>
    match readBits ext r with
    | none => none
    | some (v, r1) => some (base + v, r1)

/-- `len` times: append `out[len(out) - dist]`, one byte at a time (R114). Used only where `1 ≤ dist ≤ len(out)`. -/
def copyBack (dist : Nat) : Nat → List Byte → List Byte
  | 0, out => out
  | n + 1, out => copyBack dist n (out.getD (dist - 1) 0#8 :: out)

/-- A length symbol `S = 257 .. 285` (R114): the length with its extra bits, then the distance symbol with its extra bits,
then the copy; a distance symbol above 29 or a distance beyond the output is malformed. -/
def readCopy (dist : List CodeLevel) (sym : Nat) (r : BitReader) (out : List Byte) :
    Option (List Byte × BitReader) :=
  match readExtra lengthTable (sym - 257) r with
  | none => none
  | some (len, r1) =>
    match decodeSymbol dist 0 r1 with
    | none => none
    | some (t, r2) =>
      match readExtra distanceTable t r2 with
      | none => none
      | some (d, r3) => if out.length < d then none else some (copyBack d len out, r3)

/-- The body of a compressed block (R114). `fuel` bounds the number of symbols: each takes at least one bit. -/
def inflateBody (lit dist : List CodeLevel) :
    Nat → BitReader → List Byte → Option (List Byte × BitReader)
  | 0, _, _ => none
  | fuel + 1, r, out =>
    match decodeSymbol lit 0 r with
    | none => none
    | some (sym, r1) =>
      if sym < 256 then inflateBody lit dist fuel r1 (BitVec.ofNat 8 sym :: out)
      else if sym = 256 then some (out, r1)
      else if sym ≤ 285 then
        match readCopy dist sym r1 out with
        | none => none
        | some (out1, r2) => inflateBody lit dist fuel r2 out1
      else none

/-- A stored block (R109). -/
def inflateStored (r : BitReader) (out : List Byte) : Option (List Byte × BitReader) :=
  match readBits 16 (alignReader r) with
  | none => none
  | some (len, r1) =>
    match readBits 16 r1 with
    | none => none
    | some (nlen, r2) =>
      if len ^^^ nlen ≠ 0xFFFF then none
      else
        match readBytes len r2 with
        | none => none
        | some (bytes, r3) => some (bytes.reverse ++ out, r3)

/-- A block with the fixed codes (R111). -/
def inflateFixed (r : BitReader) (out : List Byte) : Option (List Byte × BitReader) :=
  inflateBody (codeOf fixedLitLengths) (codeOf fixedDistLengths) (bitsLeft r) r out

/-- The order in which the code-length code's lengths are read (R112). -/
def codeLengthOrder : List Nat := [16, 17, 18, 0, 8, 7, 9, 6, 10, 5, 11, 4, 12, 3, 13, 2, 14, 1, 15]

/-- `n` values of `bits(3)` (R112). -/
def readTriples : Nat → BitReader → Option (List Nat × BitReader)
  | 0, r => some ([], r)
  | n + 1, r =>
    match readBits 3 r with
    | none => none
    | some (v, r1) =>
      match readTriples n r1 with
      | none => none
      | some (vs, r2) => some (v :: vs, r2)

/-- The 19 lengths of the code-length code in symbol order: the values read go to the symbols of `codeLengthOrder`, symbols
not reached have length 0 (R112). -/
def placeCodeLengths (vals : List Nat) : List Nat :=
  (List.range 19).map fun sym => vals.getD (codeLengthOrder.idxOf sym) 0

/-- The lengths one code-length symbol stands for, given the lengths before it (newest first): a length itself, or a repeat
with its extra bits (R112). -/
def expandLength (sym : Nat) (before : List Nat) (r : BitReader) : Option (List Nat × BitReader) :=
  if sym ≤ 15 then some ([sym], r)
  else if sym = 16 then
    match before with
    | [] => none
    | l :: _ =>
      match readBits 2 r with
      | none => none
      | some (v, r1) => some (List.replicate (3 + v) l, r1)
  else if sym = 17 then
    match readBits 3 r with
    | none => none
    | some (v, r1) => some (List.replicate (3 + v) 0, r1)
  else
    match readBits 7 r with
    | none => none
    | some (v, r1) => some (List.replicate (11 + v) 0, r1)

/-- `total` code lengths into one list, newest first (R112); a repeat past the end is malformed. `fuel` bounds the number of
symbols: each yields at least one length. -/
def readLengths (code : List CodeLevel) (total : Nat) :
    Nat → BitReader → List Nat → Option (List Nat × BitReader)
  | 0, _, _ => none
  | fuel + 1, r, acc =>
    if acc.length = total then some (acc, r)
    else
      match decodeSymbol code 0 r with
      | none => none
      | some (sym, r1) =>
        match expandLength sym acc r1 with
        | none => none
        | some (ls, r2) =>
          if total < acc.length + ls.length then none
          else readLengths code total fuel r2 (ls ++ acc)

/-- The literal/length and the distance code lengths of a dynamic block, in that order (R112): `hlit` of the first. -/
structure DynamicCodes where
  lit : List Nat
  dist : List Nat
deriving DecidableEq, Repr

/-- The code lengths of a dynamic block after `HLIT`, `HDIST`, `HCLEN` (R112), with the checks of R110 and R112. -/
def readDynamicLengths (hlit hdist hclen : Nat) (r : BitReader) : Option (DynamicCodes × BitReader) :=
  if 286 < hlit ∨ 30 < hdist then none
  else
    match readTriples hclen r with
    | none => none
    | some (vals, r1) =>
      if completeCode (placeCodeLengths vals) then
        match readLengths (codeOf (placeCodeLengths vals)) (hlit + hdist) (hlit + hdist + 1) r1 [] with
        | none => none
        | some (acc, r2) =>
          let codes : DynamicCodes := ⟨acc.reverse.take hlit, acc.reverse.drop hlit⟩
          if codes.lit.getD 256 0 = 0 then none
          else if litLengthsOk codes.lit && distLengthsOk codes.dist then some (codes, r2)
          else none
      else none

/-- The header of a dynamic block (R112). -/
def readDynamicHeader (r : BitReader) : Option (DynamicCodes × BitReader) :=
  match readBits 5 r with
  | none => none
  | some (hl, r1) =>
    match readBits 5 r1 with
    | none => none
    | some (hd, r2) =>
      match readBits 4 r2 with
      | none => none
      | some (hc, r3) => readDynamicLengths (hl + 257) (hd + 1) (hc + 4) r3

/-- A block with dynamic codes (R112). -/
def inflateDynamic (r : BitReader) (out : List Byte) : Option (List Byte × BitReader) :=
  match readDynamicHeader r with
  | none => none
  | some (codes, r1) => inflateBody (codeOf codes.lit) (codeOf codes.dist) (bitsLeft r1) r1 out

/-- One block by its `BTYPE` (R108). -/
def inflateBlock (btype : Nat) (r : BitReader) (out : List Byte) : Option (List Byte × BitReader) :=
  match btype with
  | 0 => inflateStored r out
  | 1 => inflateFixed r out
  | 2 => inflateDynamic r out
  | _ => none

/-- `inflate_blocks()` (R108). `fuel` bounds the number of blocks: each takes at least three bits. -/
def inflateBlocks : Nat → BitReader → List Byte → Option (List Byte × BitReader)
  | 0, _, _ => none
  | fuel + 1, r, out =>
    match readBit r with
    | none => none
    | some (bfinal, r1) =>
      match readBits 2 r1 with
      | none => none
      | some (btype, r2) =>
        match inflateBlock btype r2 out with
        | none => none
        | some (out1, r3) => if bfinal then some (out1, r3) else inflateBlocks fuel r3 out1

/-- The bit stream that starts a byte sequence: its output, and the bytes after the byte in which it ends (R105, R117). -/
def inflateStream (b : List Byte) : Option (List Byte × List Byte) :=
  match inflateBlocks (bitsLeft (readerAt b)) (readerAt b) [] with
  | none => none
  | some (out, r) => some (out.reverse, (alignReader r).rest)

/-- The zlib header's checks on `CMF` and `FLG` (R105). -/
def zlibHeaderOk (cmf flg : Byte) : Bool :=
  decide (cmf.toNat % 16 = 8) && decide (cmf.toNat / 16 ≤ 7) &&
    decide ((256 * cmf.toNat + flg.toNat) % 31 = 0) && !flg.getLsbD 5

/-- Block P105: the result and the bytes left over (R105, R115). -/
def inflateZlib (b : List Byte) : Option (List Byte × List Byte) :=
  match b with
  | cmf :: flg :: body =>
    if zlibHeaderOk cmf flg then
      match inflateStream body with
      | none => none
      | some (out, t) =>
        match t with
        | a0 :: a1 :: a2 :: a3 :: left => if be32 a0 a1 a2 a3 = adler32 out then some (out, left) else none
        | _ => none
    else none
  | _ => none

/-- Skip bytes up to and including the next `00` (R117). -/
def skipString : List Byte → Option (List Byte)
  | [] => none
  | b :: bs => if b = 0#8 then some bs else skipString bs

/-- Skip `n` bytes; running out is malformed (R117). -/
def skipBytes (n : Nat) (b : List Byte) : Option (List Byte) := if b.length < n then none else some (b.drop n)

/-- `FLG[2]`: a two-byte little-endian length and that many bytes (R117). -/
def skipExtraField (present : Bool) (b : List Byte) : Option (List Byte) :=
  if present then
    match b with
    | x0 :: x1 :: rest => skipBytes (x0.toNat + 256 * x1.toNat) rest
    | _ => none
  else some b

/-- `FLG[3]`, `FLG[4]`: a file name, a comment (R117). -/
def skipStringField (present : Bool) (b : List Byte) : Option (List Byte) :=
  if present then skipString b else some b

/-- `FLG[1]`: two bytes of header CRC, not checked (R117). -/
def skipHeaderCrc (present : Bool) (b : List Byte) : Option (List Byte) :=
  if present then skipBytes 2 b else some b

/-- The optional fields of a gzip header in their order (R117). -/
def skipGzipFields (flg : Byte) (b : List Byte) : Option (List Byte) :=
  (skipExtraField (flg.getLsbD 2) b).bind fun b1 =>
    (skipStringField (flg.getLsbD 3) b1).bind fun b2 =>
      (skipStringField (flg.getLsbD 4) b2).bind fun b3 => skipHeaderCrc (flg.getLsbD 1) b3

/-- The gzip header (R117): the magic bytes, the method, the flags, six bytes skipped, the optional fields. -/
def skipGzipHeader (b : List Byte) : Option (List Byte) :=
  match b with
  | id1 :: id2 :: cm :: flg :: rest =>
    if id1 = 0x1F#8 ∧ id2 = 0x8B#8 ∧ cm = 0x08#8 ∧ flg.toNat / 32 = 0 then
      (skipBytes 6 rest).bind (skipGzipFields flg)
    else none
  | _ => none

/-- The gzip wrapper (R117): the result and the bytes left over. -/
def inflateGzip (b : List Byte) : Option (List Byte × List Byte) :=
  match skipGzipHeader b with
  | none => none
  | some body =>
    match inflateStream body with
    | none => none
    | some (out, t) =>
      match t with
      | c0 :: c1 :: c2 :: c3 :: l0 :: l1 :: l2 :: l3 :: left =>
        if le32 c0 c1 c2 c3 = crcOf out ∧ le32 l0 l1 l2 l3 = BitVec.ofNat 32 out.length then some (out, left)
        else none
      | _ => none

/-- `inflate` by `DEFLATE_WRAP` (R100, R105, R117): the result, and the bytes of the input after the end of the stream, which
`INFLATE` ignores (R115). -/
def inflateWrapped (w : DeflateWrap) (b : List Byte) : Option (List Byte × List Byte) :=
  match w with
  | .zlib => inflateZlib b
  | .raw => inflateStream b
  | .gzip => inflateGzip b

/-- The bytes `INFLATE` yields, or `MalformedStream` (R102, R116). -/
def inflateResult (w : DeflateWrap) (b : List Byte) : Except Cause (List Byte) :=
  match inflateWrapped w b with
  | some (out, _) => .ok out
  | none => .error .malformedStream

/-- `INFLATE` (R102): reads `IN`; writes `OUT`. -/
def execInflate (s : State) : StepOutcome := finishOut (inflateResult s.cfg.deflateWrap s.inBuf) s

end Sys2Proof.Machine
end

