-- ==== Sys2Proof/Machine/Deflate.lean ====
section
/-! DEFINITION. The compressor and the command `DEFLATE` (43_deflate.md R101, R103, R104). -/

namespace Sys2Proof.Machine

/-- One stored block (R104): `[f] ++ le16(len) ++ le16(len XOR 0xFFFF) ++ c`. -/
def storedBlock (final : Bool) (c : List Byte) : List Byte :=
  (if final then 0x01#8 else 0x00#8) :: (bytesLe16 c.length ++ bytesLe16 (c.length ^^^ 0xFFFF) ++ c)

/-- `blocks(x)` (R104): chunks of 65535 bytes but the last; `fuel` is the number of chunks before the last. -/
def storedBlocksFrom : Nat → List Byte → List Byte
  | 0, x => storedBlock true x
  | fuel + 1, x =>
    if x.length ≤ 65535 then storedBlock true x
    else storedBlock false (x.take 65535) ++ storedBlocksFrom fuel (x.drop 65535)

/-- `blocks(x)` (R104). -/
def storedBlocks (x : List Byte) : List Byte := storedBlocksFrom (x.length / 65535) x

/-- The gzip header of R104. -/
def gzipStoredHeader : List Byte :=
  [0x1F#8, 0x8B#8, 0x08#8, 0x00#8, 0x00#8, 0x00#8, 0x00#8, 0x00#8, 0x00#8, 0xFF#8]

/-- `stored(x)`, the stored-block encoder (R104). -/
def storedEncoder (w : DeflateWrap) (x : List Byte) : List Byte :=
  match w with
  | .zlib => [0x78#8, 0x01#8] ++ storedBlocks x ++ bytesBe32 (adler32 x)
  | .raw => storedBlocks x
  | .gzip => gzipStoredHeader ++ storedBlocks x ++ bytesLe32 (crcOf x) ++ bytesLe32 (BitVec.ofNat 32 x.length)

/-- R101 (b) for one input: `inflate` of the output succeeds, returns the input, and no byte is left over. -/
def meetsR101 (w : DeflateWrap) (x y : List Byte) : Bool := decide (inflateWrapped w y = some (x, []))

/-- The bytes the compressor of the configuration offers for an input; none where it leaves the input to the stored encoder. -/
def offeredBytes (cfg : Config) (x : List Byte) : Option (List Byte) :=
  match cfg.deflateFn with
  | .stored => none
  | .given values => values.lookup x
  | .library => some (Config.libraryBytes cfg.deflateWrap x)

/-- `DEFLATE_FN` (R101): what the configured compressor offers, held to R101 (b) input by input: where offered bytes do not meet it they are no
output of any `DEFLATE_FN`, and the stored encoder's stand in (log entry 5). -/
def deflateFn (cfg : Config) (x : List Byte) : List Byte :=
  match offeredBytes cfg x with
  | some y => if meetsR101 cfg.deflateWrap x y then y else storedEncoder cfg.deflateWrap x
  | none => storedEncoder cfg.deflateWrap x

/-- The configuration in which `DEFLATE_FN` is `fn` on the inputs `xs`: any function, on any inputs a run can have (R6). -/
def withDeflateFn (cfg : Config) (fn : List Byte → List Byte) (xs : List (List Byte)) : Config :=
  { cfg with deflateFn := .given (xs.map fun x => (x, fn x)) }

/-- `DEFLATE` with `DEFLATE_FN` as an argument (R6, R101): reads `IN`; writes `OUT`. -/
def deflateWith (fn : List Byte → List Byte) (s : State) : StepOutcome := finishOut (.ok (fn s.inBuf)) s

/-- `DEFLATE` (R101): with the `DEFLATE_FN` of the configuration. -/
def execDeflate (s : State) : StepOutcome := deflateWith (deflateFn s.cfg) s

end Sys2Proof.Machine
end

