-- ==== Sys2Proof/Machine/Text.lean ====
section
/-! DEFINITION. The text commands (45_hex_ascii.md R160 to R166). A character is its code, a natural (10_state.md R19). -/

namespace Sys2Proof.Machine

/-- `hv(c)`: the value of a hex digit, upper or lower case; undefined for every other character (R164). -/
def hexValue (c : Nat) : Option Nat :=
  if 0x30 ≤ c ∧ c ≤ 0x39 then some (c - 0x30)
  else if 0x41 ≤ c ∧ c ≤ 0x46 then some (c - 0x41 + 10)
  else if 0x61 ≤ c ∧ c ≤ 0x66 then some (c - 0x61 + 10)
  else none

/-- `hd(n)`: the uppercase digit of `n`, `0 ≤ n ≤ 15` (R164). -/
def hexDigit (n : Nat) : Nat := if n ≤ 9 then 0x30 + n else 0x41 + n - 10

/-- The bytes of paired hex digits, the first of a pair the high nibble (R160; 20_memory.md R33); an odd last character is
dropped unexamined; `none` where an examined character is no hex digit. -/
def hexDecode : List Nat → Option (List Byte)
  | hi :: lo :: rest =>
    match hexValue hi, hexValue lo, hexDecode rest with
    | some h, some l, some bytes => some (BitVec.ofNat 8 (16 * h + l) :: bytes)
    | _, _, _ => none
  | _ => some []

/-- One byte as uppercase hex without a leading zero (R161). -/
def hexOfByte (v : Byte) : List Nat :=
  if v.toNat < 16 then [hexDigit v.toNat] else [hexDigit (v.toNat / 16), hexDigit (v.toNat % 16)]

/-- `hexEncode(bytes)` (R161). -/
def hexEncode (b : List Byte) : List Nat := b.flatMap hexOfByte

/-- `asciiToBytes`: the low byte of each character (R162). -/
def asciiToBytes (t : List Nat) : List Byte := t.map (BitVec.ofNat 8)

/-- `bytesToAscii`: each byte zero-extended to a character (R163). -/
def bytesToAscii (b : List Byte) : List Nat := b.map BitVec.toNat

/-- The bytes `HEX_DEC` yields, or `BadDigit` (R160). -/
def hexDecResult (t : List Nat) : Except Cause (List Byte) :=
  match hexDecode t with
  | some b => .ok b
  | none => .error .badDigit

/-- `HEX_DEC` (R160): reads `TXT`; writes `OUT`. -/
def execHexDec (s : State) : StepOutcome := finishOut (hexDecResult s.txtBuf) s

/-- `HEX_ENC` (R161): reads `IN`; writes `TXT`. -/
def execHexEnc (s : State) : StepOutcome := finishTxt (.ok (hexEncode s.inBuf)) s

/-- `A2B` (R162): reads `TXT`; writes `OUT`. -/
def execA2b (s : State) : StepOutcome := finishOut (.ok (asciiToBytes s.txtBuf)) s

/-- `B2A` (R163): reads `IN`; writes `TXT`. -/
def execB2a (s : State) : StepOutcome := finishTxt (.ok (bytesToAscii s.inBuf)) s

end Sys2Proof.Machine
end

