-- ==== Sys2Proof/Machine/Dispatch.lean ====
section
/-! DEFINITION. The meaning of each command, one arm per constructor of Instr (30_encoding.md R52). -/

namespace Sys2Proof.Machine

def exec (i : Instr) (s : State) : Host.Outcome State Fault Refusal :=
  match i with
  | .xxteaEnc => Sys2Proof.Machine.execXxteaEnc s
  | .xxteaDec => Sys2Proof.Machine.execXxteaDec s
  | .crc32 => Sys2Proof.Machine.execCrc32 s
  | .deflate => Sys2Proof.Machine.execDeflate s
  | .inflate => Sys2Proof.Machine.execInflate s
  | .parseU32le => Sys2Proof.Machine.execParseU32le s
  | .writeU32le => Sys2Proof.Machine.execWriteU32le s
  | .b2w => Sys2Proof.Machine.execB2w s
  | .w2b => Sys2Proof.Machine.execW2b s
  | .reorder => Sys2Proof.Machine.execReorder s
  | .hexDec => Sys2Proof.Machine.execHexDec s
  | .hexEnc => Sys2Proof.Machine.execHexEnc s
  | .a2b => Sys2Proof.Machine.execA2b s
  | .b2a => Sys2Proof.Machine.execB2a s

end Sys2Proof.Machine
end

