-- ==== Sys2Proof/Machine/HostPort.lean ====
section
/-! DEFINITION. What a host action does to the block (10_state.md R14, R15, R22, R25; 30_encoding.md R51, R53, R57;
70_reset_and_hazards.md R240). -/

namespace Sys2Proof.Machine

/-- A write to `CMD` (R51): `CMD` takes the value; it is decoded; a value that selects no command raises `IllegalCommand`
(R53); else the command runs. -/
def issueCommand (c : Word) (s : State) : StepOutcome :=
  match decode c with
  | .ok i => exec i (s.setCmd c)
  | .error _ => .next (takeFault .illegalCommand (s.setCmd c))

/-- A host write that replaces a buffer by a content of `n` elements: the host cannot write more than `BUF_MAX` (R25). -/
def hostReplace (s : State) (n : Nat) (t : State) : StepOutcome :=
  if s.cfg.fits n then .next t else .fault .hostContentTooLong

/-- A host write to `TXT`: every element is a character of `CHAR_W` bits (R19, R25). -/
def hostReplaceTxt (s : State) (content : List Nat) : StepOutcome :=
  if content.all s.cfg.isChar then hostReplace s content.length (s.setTxt content)
  else .fault .hostNotACharacter

/-- What one host action does (R22). -/
def perform (a : HostAction) (s : State) : StepOutcome :=
  match a with
  | .writeIn content => hostReplace s content.length (s.setIn content)
  | .writeKey content => hostReplace s content.length (s.setKey content)
  | .writeWrd content => hostReplace s content.length (s.setWrd content)
  | .writeTxt content => hostReplaceTxt s content
  | .writeOffset v => .next (s.setOffset v)
  | .writeValue v => .next (s.setValue v)
  | .writeCmd c => issueCommand c s
  | .writeStatus _ => .next s
  | .copyOutToIn tail => hostReplace s (s.outBuf ++ tail).length (s.setIn (s.outBuf ++ tail))
  | .appendIn tail => hostReplace s (s.inBuf ++ tail).length (s.setIn (s.inBuf ++ tail))
  | .copyOutToKey => hostReplace s s.outBuf.length (s.setKey s.outBuf)
  | .reset => .next (resetItems s)

/-- The host's next action taken off its pending actions (R12); with none pending the block is idle and nothing changes
(R241). -/
def stepScript (s : State) : StepOutcome :=
  match s.script with
  | [] => .next s
  | a :: rest => perform a (s.setScript rest)

/-- A host action that writes the command of value `w` (its low `nbits` bits) placed before the pending ones. -/
def placeCommand (s : State) (nbits w : Nat) : State :=
  s.setScript (.writeCmd (BitVec.ofNat 32 (w % 2 ^ nbits)) :: s.script)

end Sys2Proof.Machine
end

