-- ==== Sys2Proof/Machine/Step.lean ====
section
/-! DEFINITION. One step of the machine: the host's next action (10_state.md R12, R22; log entry 1). A write to `CMD` is the
only one that makes the engine run a command, from start to end in this one step (R10; 20_memory.md R37). -/

namespace Sys2Proof.Machine

/-- One step. -/
def step (s : State) : Host.Outcome State Fault Refusal := stepScript s

/-- The state whose next step runs the command of value `w`: the block fetches nothing (R12), the host writes the value to
`CMD` (R51). -/
def State.withFetchWord (s : State) (nbits w : Nat) : State := placeCommand s nbits w

end Sys2Proof.Machine
end

