-- ==== Sys2Proof/Machine/HostKeys.lean ====
section
/-! DEFINITION. The host's keys (46_host_pipeline.md R183, R191, R192), outside the block (00_scope.md R4): the key pair, the text of a
key, and the outer key of a device identifier. The digest (MD5) and the package suffix are arguments (U29). The derivation is computed in the
host and issues no command (DESIGN CHOICE, log entry 17). -/

namespace Sys2Proof.Machine

/-- A key of the host: exactly 16 bytes (R183). -/
abbrev Key := Vector Byte 16

/-- The first 16 bytes of a sequence as a key. Used only where there are 16. -/
def keyFrom (b : List Byte) : Key := Vector.ofFn fun i => b.getD i.val 0#8

/-- The fixed inner key (R183). -/
def innerKey : Key :=
  keyFrom [0x30#8, 0x2A#8, 0x75#8, 0x50#8, 0x7A#8, 0xCB#8, 0xD7#8, 0x2F#8,
    0x89#8, 0x50#8, 0x4E#8, 0x47#8, 0x12#8, 0x90#8, 0x1C#8, 0xF0#8]

/-- The key pair of an attempt (R183): the outer key is what changes, set before each decode or encode attempt. -/
structure KeyPair where
  outerKey : Key
deriving DecidableEq, Repr

/-- The other half of every key pair: the process-wide constant (R183). -/
def KeyPair.innerKey (_ : KeyPair) : Key := Sys2Proof.Machine.innerKey

/-- A key as the string of 32 hex characters, two for each byte, leading zero kept (R183, C7; R199: an encoder of the host's own, not
`HEX_ENC`). DESIGN CHOICE (log entry 15): uppercase letters. -/
def keyText (k : Key) : List Nat := k.toList.flatMap fun v => [hexDigit (v.toNat / 16), hexDigit (v.toNat % 16)]

/-- What a cleaned identifier is (R191). -/
inductive IdentifierKind where
  | gluid
  | imei
  | meidHex
  | meidDecimal
  | androidInstallId
  | unrecognized
deriving DecidableEq, Repr

/-- Strip every character outside `[0-9A-Fa-f]` (R191). -/
def cleanIdentifier (t : List Nat) : List Nat := t.filter fun c => (hexValue c).isSome

/-- "all-digit", tested on the cleaned string (R191). -/
def allDigits (t : List Nat) : Bool := t.all fun c => decide (0x30 ≤ c ∧ c ≤ 0x39)

/-- The classification by cleaned length (R191; a length of 15 or 18 not all-digit is unrecognized, N18). -/
def classifyIdentifier (clean : List Nat) : IdentifierKind :=
  if 32 ≤ clean.length then .gluid
  else if clean.length = 15 ∧ allDigits clean then .imei
  else if clean.length = 14 then .meidHex
  else if clean.length = 18 ∧ allDigits clean then .meidDecimal
  else if clean.length = 16 then .androidInstallId
  else .unrecognized

/-- One step of the Android key routine: the sign of the word at `i mod 3` decides whether the word at `i` is replaced (R192;
the mismatch of the two indices is kept as the source asks). -/
def adjustKeyWord (w : List Word) (i : Nat) : List Word :=
  if (w.getD (i % 3) 0#32).msb then w.set i (0x7FFFFFFF#32 - w.getD i 0#32) else w

/-- The four steps `i = 0, 1, 2, 3` (R192). -/
def adjustKeyWords (w : List Word) : List Word := (List.range 4).foldl adjustKeyWord w

/-- `deriveAndroidKey` (R192), given the digest, 16 bytes, and the package suffix. DESIGN CHOICE (log entry 17): R192 does not say where its
`A2B`, `REORDER`, `B2W` and `W2B` run; the host computes what those commands give, and the block is untouched. -/
def deriveAndroidKey (md5 : List Byte → Key) (suffix clean : List Nat) : Key :=
  keyFrom (bytesLe (adjustKeyWords (wordsLe (reorderGroups (md5 (asciiToBytes (clean ++ suffix))).toList))))

/-- A GLUID-style key: the first 32 cleaned characters, hex-decoded (R191); `none` only where a character is no digit, which a cleaned
string has not. DESIGN CHOICE (log entry 17): decoded in the host, not by `HEX_DEC`. -/
def gluidKey (clean : List Nat) : Option Key := (hexDecode (clean.take 32)).map keyFrom

/-- The outer key of a device identifier (R191, R192); `none` is `Unrecognized`. DESIGN CHOICE (log entry 17): the derivation is the host's own
computation, which runs no command, reads and changes no item of the block and is bounded by neither `BUF_MAX` nor `CHAR_W`. -/
def deriveOuterKey (md5 : List Byte → Key) (suffix identifier : List Nat) : Option Key :=
  match classifyIdentifier (cleanIdentifier identifier) with
  | .gluid => gluidKey (cleanIdentifier identifier)
  | .imei => some (deriveAndroidKey md5 suffix (cleanIdentifier identifier))
  | .meidHex => some (deriveAndroidKey md5 suffix (cleanIdentifier identifier))
  | .meidDecimal => some (deriveAndroidKey md5 suffix (cleanIdentifier identifier))
  | .androidInstallId => some (deriveAndroidKey md5 suffix (cleanIdentifier identifier))
  | .unrecognized => none

end Sys2Proof.Machine
end

