-- ==== Sys2Proof/Machine/HostPipeline.lean ====
section
/-! DEFINITION. The host's container codec (46_host_pipeline.md R180 to R190, R193 to R197), outside the block (00_scope.md R4): no step
of the machine uses it. It is what the spec says the host does with a file and a document, over the block's own commands. -/

namespace Sys2Proof.Machine

/-- The host's error names (R193). -/
inductive HostError where
  /-- The sanity check failed, or framing ran out of the file. -/
  | malformedContainer
  /-- Key derivation could not classify the identifier. -/
  | unrecognizedIdentifier
  /-- The outer decrypt gave a stream that `INFLATE` cannot parse. -/
  | decryptionFailure
  /-- `MalformedStream` anywhere else in the pipeline. -/
  | compressionFailure
  /-- The external collaborator rejects the document. -/
  | documentCorrupt
  /-- A block fault with no name in the source's taxonomy: a host programming error (R193). -/
  | programmingError
  /-- The MODEL's name (log entry 13) for an operation asked for in a state that it does not start from: the source's "returns false"
  (R187). -/
  | illegalTransition
deriving DecidableEq, Repr

/-- Where in its pipeline the host runs a command: what names a fault (43_deflate.md R119; R193). -/
inductive PipelinePosition where
  | framing
  | outerStage
  | elsewhere
deriving DecidableEq, Repr

/-- The host's name for a block fault (R193, R119; C11): `MalformedStream` is `DecryptionFailure` in the outer stage and
`CompressionFailure` anywhere else, `OutOfRange` while framing is `MalformedContainer`, every other is a programming error. -/
def hostErrorOf (position : PipelinePosition) (code : BitVec 8) : HostError :=
  if code = causeCode .malformedStream then
    match position with
    | .outerStage => .decryptionFailure
    | .framing => .compressionFailure
    | .elsewhere => .compressionFailure
  else if code = causeCode .outOfRange then
    match position with
    | .framing => .malformedContainer
    | .outerStage => .programmingError
    | .elsewhere => .programmingError
  else .programmingError

/-- Several host actions in order (R12); it stops where the model stops. -/
def runActions : List HostAction → State → StepOutcome
  | [], s => .next s
  | a :: as, s =>
    match perform a s with
    | .next t => runActions as t
    | .fault f => .fault f
    | .refused r => .refused r

/-- Host writes, then one command, then the check of `STATUS` that the source asks of every caller (R190, R248): the state, or the
host's name for the fault. DESIGN CHOICE (log entry 14): a write that the host cannot make (R19, R25: the model's own stop, log entry 4) has no
name in R193 and is a programming error as well. -/
def hostCommand (writes : List HostAction) (i : Instr) (position : PipelinePosition) (s : State) : Except HostError State :=
  match runActions (writes ++ [.writeCmd (encode i)]) s with
  | .next t => if t.code = okCode then .ok t else .error (hostErrorOf position t.code)
  | .fault _ => .error .programmingError
  | .refused _ => .error .programmingError

/-! ## The container and its layers -/

/-- The on-disk representation (R182). -/
structure Container where
  decompressedSize : Word
  compressedSize : Word
  encryptedSize : Word
  payload : List Byte
  formatVersion : Word
deriving DecidableEq, Repr

/-- The file of a container (R184): three header fields, the payload, the trailer. -/
def containerFile (c : Container) : List Byte :=
  bytesLe32 c.decompressedSize ++ bytesLe32 c.compressedSize ++ bytesLe32 c.encryptedSize ++ c.payload ++
    bytesLe32 c.formatVersion

/-- `sanityCheck()` (R185). -/
def sanityCheck (c : Container) : Bool :=
  decide (c.formatVersion = 1#32) && decide (c.decompressedSize ≠ 0#32) && decide (c.compressedSize ≠ 0#32) &&
    decide (c.encryptedSize.toNat = c.payload.length)

/-- `newLen = compressedLen + 8 - (compressedLen + 4) % 4` (R189; conflict C2: the formula wins over the prose). -/
def paddedLength (c : Nat) : Nat := c + 8 - (c + 4) % 4

/-- The padding bytes after the compressed stream of `c` bytes and the 4-byte checksum; their value is D27's `00` (log entry 6). -/
def outerPadding (c : Nat) : List Byte := List.replicate (paddedLength c - (c + 4)) 0x00#8

/-- The padding of a document of `n` bytes: spaces up to the next multiple of 4, none when aligned (R188, D27; log entry 6). -/
def documentPadding (n : Nat) : List Byte := List.replicate ((4 - n % 4) % 4) 0x20#8

/-- One header or trailer field by `PARSE_U32LE` (R197); an offset that does not fit `OFFSET` is out of range as well (log entry 7). -/
def hostParse (writes : List HostAction) (offset : Nat) (s : State) : Except HostError State :=
  if offset < 2 ^ 32 then
    hostCommand (writes ++ [.writeOffset (BitVec.ofNat 32 offset)]) .parseU32le .framing s
  else .error .malformedContainer

/-- Framing (R184, R197): the three sizes and the format version by `PARSE_U32LE`, the payload all between the header and the
trailer (P3 line 21; log entry 7). -/
def frameFile (file : List Byte) (s : State) : Except HostError (Container × State) :=
  (hostParse [.writeIn file] 0 s).bind fun s0 =>
  (hostParse [] 4 s0).bind fun s1 =>
  (hostParse [] 8 s1).bind fun s2 =>
  (hostParse [] (12 + s2.value.toNat) s2).bind fun s3 =>
    .ok (⟨s0.value, s1.value, s2.value, memRead file 12 (file.length - 16), s3.value⟩, s3)

/-- The payload decrypted under the outer key (R186, first half). -/
def decryptPayload (outerKey : Key) (payload : List Byte) (s : State) : Except HostError (List Byte × State) :=
  (hostCommand [.writeIn payload, .writeKey outerKey.toList] .xxteaDec .outerStage s).bind fun t => .ok (t.outBuf, t)

/-- The decrypted payload inflated, checksum and padding included (R186, second half; R115). -/
def inflatePayload (bytes : List Byte) (s : State) : Except HostError (List Byte × State) :=
  (hostCommand [.writeIn bytes] .inflate .outerStage s).bind fun t => .ok (t.outBuf, t)

/-- The document in the outer plaintext: decrypted under the inner key, one character a byte (R187). -/
def decryptDocument (outerPlaintext : List Byte) (s : State) : Except HostError (List Nat × State) :=
  (hostCommand [.writeIn outerPlaintext, .writeKey innerKey.toList] .xxteaDec .elsewhere s).bind fun t =>
    (hostCommand [.copyOutToIn []] .b2a .elsewhere t).bind fun u => .ok (u.txtBuf, u)

/-- `encryptInnerLayer` (R188): the document's bytes, padded, under the inner key. -/
def encryptInner (document : List Nat) (s : State) : Except HostError (List Byte × State) :=
  (hostCommand [.writeTxt document] .a2b .elsewhere s).bind fun t =>
    (hostCommand [.copyOutToIn (documentPadding t.outBuf.length), .writeKey innerKey.toList] .xxteaEnc .elsewhere t).bind fun u =>
      .ok (u.outBuf, u)

/-- `encryptOuterLayer` (R189; D28: the checksummed buffer is the one that is compressed): the container. DESIGN CHOICE (log entry 12): the
size fields have 32 bits and the functions no bound (N22); a length of `2^32` or more is written modulo `2^32`. -/
def encryptOuter (outerKey : Key) (buffer : List Byte) (s : State) : Except HostError (Container × State) :=
  (hostCommand [.writeIn buffer] .crc32 .elsewhere s).bind fun t =>
  (hostCommand [] .deflate .elsewhere t).bind fun u =>
  (hostCommand [.copyOutToIn (t.outBuf ++ outerPadding u.outBuf.length), .writeKey outerKey.toList] .xxteaEnc
    .elsewhere u).bind fun v =>
    .ok (⟨BitVec.ofNat 32 buffer.length, BitVec.ofNat 32 (u.outBuf.length + 4), BitVec.ofNat 32 v.outBuf.length,
      v.outBuf, 1#32⟩, v)

/-! ## The object and its operations -/

/-- The tagged states of R190. From `sanityChecked` on the container stays, from `outerDecompressed` on the slot `outerPlaintext`, so
that a stage can be run again. -/
inductive Stage where
  | raw (file : List Byte)
  | sanityChecked (c : Container)
  | outerDecrypted (c : Container) (bytes : List Byte)
  | outerDecompressed (c : Container) (outerPlaintext : List Byte)
  | innerDecrypted (c : Container) (outerPlaintext : List Byte) (document : List Nat)
deriving DecidableEq, Repr

/-- The container of a state whose header has been checked (R190). -/
def Stage.container : Stage → Option Container
  | .raw _ => none
  | .sanityChecked c => some c
  | .outerDecrypted c _ => some c
  | .outerDecompressed c _ => some c
  | .innerDecrypted c _ _ => some c

/-- The slot `outerPlaintext` (R182, R190). -/
def Stage.outerPlaintext : Stage → Option (List Byte)
  | .raw _ => none
  | .sanityChecked _ => none
  | .outerDecrypted _ _ => none
  | .outerDecompressed _ b => some b
  | .innerDecrypted _ b _ => some b

/-- A container object of one load or save attempt (R190): its key pair, unset at construction, and its state. -/
structure HostObject where
  keys : Option KeyPair
  stage : Stage
deriving DecidableEq, Repr

/-- "constructed once per load from raw bytes" (R190). -/
def HostObject.fromFile (file : List Byte) : HostObject := ⟨none, .raw file⟩

/-- The outer key "is set exactly once before the first decrypt attempt" (R190); a second time is no transition (log entry 13). -/
def setOuterKey (k : Key) (o : HostObject) : Except HostError HostObject :=
  match o.keys with
  | none => .ok { o with keys := some ⟨k⟩ }
  | some _ => .error .illegalTransition

/-- The outer key "may be refreshed before an encode" (R190). DESIGN CHOICE (log entry 13): R190 does not say from which states; the key is
replaced in every state, with or without a key before, and no encode need follow. -/
def refreshOuterKey (k : Key) (o : HostObject) : HostObject := { o with keys := some ⟨k⟩ }

/-- `Raw` to `SanityChecked` (R184, R185, R190). -/
def checkSanity (o : HostObject) (s : State) : Except HostError (HostObject × State) :=
  match o.stage with
  | .raw file =>
    (frameFile file s).bind fun cs =>
      if sanityCheck cs.1 then .ok ({ o with stage := .sanityChecked cs.1 }, cs.2) else .error .malformedContainer
  | .sanityChecked _ => .error .illegalTransition
  | .outerDecrypted _ _ => .error .illegalTransition
  | .outerDecompressed _ _ => .error .illegalTransition
  | .innerDecrypted _ _ _ => .error .illegalTransition

/-- "No decoding proceeds if false" (R185; R182: "no further decode is attempted"): a decoding operation on a container that fails the
sanity check is `MalformedContainer`. A checked container from a file passes again; one that `saveDocument` rebuilt is checked
here. -/
def onlyIfSane {α : Type} (c : Container) (r : Except HostError α) : Except HostError α :=
  if sanityCheck c then r else .error .malformedContainer

/-- `SanityChecked` to `OuterDecrypted` (R190, R186). -/
def outerDecrypt (o : HostObject) (s : State) : Except HostError (HostObject × State) :=
  match o.keys, o.stage with
  | some keys, .sanityChecked c =>
    onlyIfSane c <|
      (decryptPayload keys.outerKey c.payload s).bind fun r => .ok ({ o with stage := .outerDecrypted c r.1 }, r.2)
  | _, _ => .error .illegalTransition

/-- `OuterDecrypted` to `OuterDecompressed` (R190, R186). -/
def outerDecompress (o : HostObject) (s : State) : Except HostError (HostObject × State) :=
  match o.stage with
  | .outerDecrypted c bytes =>
    onlyIfSane c <| (inflatePayload bytes s).bind fun r => .ok ({ o with stage := .outerDecompressed c r.1 }, r.2)
  | .raw _ => .error .illegalTransition
  | .sanityChecked _ => .error .illegalTransition
  | .outerDecompressed _ _ => .error .illegalTransition
  | .innerDecrypted _ _ _ => .error .illegalTransition

/-- `decryptOuterLayer` (R186), one operation: the payload decrypted and inflated, and only then the object replaced; so a failure leaves
it as it was. A container that is not sane is not decoded (R185). It starts from every state that has a container: a re-run overwrites
`outerPlaintext` (R190; what was decoded from the old one goes with it, log entry 13). -/
def decryptOuterLayer (o : HostObject) (s : State) : Except HostError (HostObject × State) :=
  match o.keys, o.stage.container with
  | some keys, some c =>
    onlyIfSane c <|
      (decryptPayload keys.outerKey c.payload s).bind fun p =>
      (inflatePayload p.1 p.2).bind fun r => .ok ({ o with stage := .outerDecompressed c r.1 }, r.2)
  | _, _ => .error .illegalTransition

/-- `decryptInnerLayer` (R187): it requires `outerPlaintext`; a re-run overwrites the document (R190); a container that is not sane
is not decoded (R185). -/
def decryptInnerLayer (o : HostObject) (s : State) : Except HostError (HostObject × State) :=
  match o.stage.container, o.stage.outerPlaintext with
  | some c, some b =>
    onlyIfSane c <| (decryptDocument b s).bind fun r => .ok ({ o with stage := .innerDecrypted c b r.1 }, r.2)
  | _, _ => .error .illegalTransition

/-- The transition that leads on from the object's state (R190). DESIGN CHOICE (log entry 13): R190 has none from `InnerDecrypted`, so asking
for one fails and, like every failure, leaves the object as it is. -/
def decodeAdvance (o : HostObject) (s : State) : Except HostError (HostObject × State) :=
  match o.stage with
  | .raw _ => checkSanity o s
  | .sanityChecked _ => outerDecrypt o s
  | .outerDecrypted _ _ => outerDecompress o s
  | .outerDecompressed _ _ => decryptInnerLayer o s
  | .innerDecrypted _ _ _ => .error .illegalTransition

/-- The object after an attempted operation: replaced where it succeeds, in the prior state where it fails (R190). -/
def replaceOrKeep (o : HostObject) (r : Except HostError (HostObject × State)) : HostObject :=
  match r with
  | .ok next => next.1
  | .error _ => o

/-- A document encrypted into the object (R188, R189): the container is rebuilt whole, and the object then holds the document, its outer
plaintext and the new container. DESIGN CHOICE (log entry 13): R190 gives no encode transition; a save needs the outer key alone and starts from
every state, `Raw` and never checked ones too, and it ends in `InnerDecrypted`. -/
def saveDocument (document : List Nat) (o : HostObject) (s : State) : Except HostError (HostObject × State) :=
  match o.keys with
  | none => .error .illegalTransition
  | some keys =>
    (encryptInner document s).bind fun b =>
    (encryptOuter keys.outerKey b.1 b.2).bind fun c => .ok ({ o with stage := .innerDecrypted c.1 b.1 document }, c.2)

/-- The document of an object that has one (R190). -/
def takeDocument (r : HostObject × State) : Except HostError (List Nat × State) :=
  match r.1.stage with
  | .innerDecrypted _ _ document => .ok (document, r.2)
  | .raw _ => .error .illegalTransition
  | .sanityChecked _ => .error .illegalTransition
  | .outerDecrypted _ _ => .error .illegalTransition
  | .outerDecompressed _ _ => .error .illegalTransition

/-- The file of an object that has a container (R184). -/
def takeFile (r : HostObject × State) : Except HostError (List Byte × State) :=
  match r.1.stage.container with
  | some c => .ok (containerFile c, r.2)
  | none => .error .illegalTransition

/-- From the file to the document under an outer key (R181, R197): a new object, the stages in order, stopping at the first failure
(R193). DESIGN CHOICE (log entry 16): the attempt runs on the block as it stands; resetting it first (R240) is the caller's. -/
def hostDecode (outerKey : Key) (file : List Byte) (s : State) : Except HostError (List Nat × State) :=
  (setOuterKey outerKey (HostObject.fromFile file)).bind fun o =>
  (checkSanity o s).bind fun a =>
  (decryptOuterLayer a.1 a.2).bind fun b =>
  (decryptInnerLayer b.1 b.2).bind takeDocument

/-- From the document to the file under an outer key (R181, R197). DESIGN CHOICE (log entry 16): like `hostDecode` it runs on the block as it
stands. -/
def hostEncode (outerKey : Key) (document : List Nat) (s : State) : Except HostError (List Byte × State) :=
  (saveDocument document (refreshOuterKey outerKey (HostObject.fromFile [])) s).bind takeFile

/-! ## The public surface -/

/-- The outer key of an identifier, or `UnrecognizedIdentifier`: then nothing is decoded or encoded (R191, R193). DESIGN CHOICE (log
entry 17): the block takes no part in the derivation. -/
def keyOrError (md5 : List Byte → Key) (suffix identifier : List Nat) : Except HostError Key :=
  match deriveOuterKey md5 suffix identifier with
  | some k => .ok k
  | none => .error .unrecognizedIdentifier

/-- `decode(rawBytes, deviceId)` (R194), given the digest and the package suffix (U29). -/
def codecDecode (md5 : List Byte → Key) (suffix : List Nat) (file : List Byte) (deviceId : List Nat) (s : State) :
    Except HostError (List Nat × State) :=
  (keyOrError md5 suffix deviceId).bind fun k => hostDecode k file s

/-- `encode(document, deviceId)` (R194), given the digest and the package suffix (U29). -/
def codecEncode (md5 : List Byte → Key) (suffix document deviceId : List Nat) (s : State) :
    Except HostError (List Byte × State) :=
  (keyOrError md5 suffix deviceId).bind fun k => hostEncode k document s

/-- `decode` with the external collaborator's verdict on the document (R193; R196, scenario 2): a document it rejects is
`DocumentCorrupt` and is not surfaced. The collaborator's test is an argument. -/
def loadDocument (valid : List Nat → Bool) (md5 : List Byte → Key) (suffix : List Nat) (file : List Byte)
    (deviceId : List Nat) (s : State) : Except HostError (List Nat × State) :=
  (codecDecode md5 suffix file deviceId s).bind fun r => if valid r.1 then .ok r else .error .documentCorrupt

end Sys2Proof.Machine
end

