-- ==== Sys2Proof/Safety.lean ====
section
/-! DEFINITION. What counts as a legal state and a safe run, in the terms the statements use. -/

namespace Sys2Proof.Machine

/-- `STATUS` is one the block can show (10_state.md R15): a code of R210; while `VALID` is 0, `CODE` is 0 and no fault has been;
a fault code comes with `STICKY`. -/
def statusLegal (s : State) : Bool :=
  decide (s.code.toNat ≤ 7) && (s.valid || (decide (s.code = 0#8) && !s.sticky)) && (decide (s.code = 0#8) || s.sticky)

/-- The invariant every step keeps: an admitted configuration (00_scope.md R6), buffers that hold what they can (R19, R25), a legal
`STATUS` (R15). -/
def State.Inv (s : State) : Prop := s.cfg.wellFormed = true ∧ Memory.wf s = true ∧ statusLegal s = true

/-- No fault since reset (60_exceptions.md R217). -/
def ranClean (s : State) : Bool := !s.sticky

/-- The one item a command writes when it succeeds (30_encoding.md R52, column "Writes"). -/
inductive ResultItem where
  | out
  | wrd
  | txt
  | value
deriving DecidableEq, Repr

/-- The column "Writes" of R52. -/
def resultItem : Instr → ResultItem
  | .xxteaEnc => .out
  | .xxteaDec => .out
  | .crc32 => .out
  | .deflate => .out
  | .inflate => .out
  | .parseU32le => .value
  | .writeU32le => .out
  | .b2w => .wrd
  | .w2b => .out
  | .reorder => .out
  | .hexDec => .out
  | .hexEnc => .txt
  | .a2b => .out
  | .b2a => .txt

/-- Two states hold the same operands of a command: the column "Reads" of R52. -/
def readsAgree (i : Instr) (s t : State) : Prop :=
  match i with
  | .xxteaEnc => s.inBuf = t.inBuf ∧ s.keyBuf = t.keyBuf
  | .xxteaDec => s.inBuf = t.inBuf ∧ s.keyBuf = t.keyBuf
  | .crc32 => s.inBuf = t.inBuf
  | .deflate => s.inBuf = t.inBuf
  | .inflate => s.inBuf = t.inBuf
  | .parseU32le => s.inBuf = t.inBuf ∧ s.offset = t.offset
  | .writeU32le => s.inBuf = t.inBuf ∧ s.offset = t.offset ∧ s.value = t.value
  | .b2w => s.inBuf = t.inBuf
  | .w2b => s.wrdBuf = t.wrdBuf
  | .reorder => s.inBuf = t.inBuf
  | .hexDec => s.txtBuf = t.txtBuf
  | .hexEnc => s.inBuf = t.inBuf
  | .a2b => s.txtBuf = t.txtBuf
  | .b2a => s.inBuf = t.inBuf

/-- Two states hold the same content of an item. -/
def itemAgrees (item : ResultItem) (s t : State) : Prop :=
  match item with
  | .out => s.outBuf = t.outBuf
  | .wrd => s.wrdBuf = t.wrdBuf
  | .txt => s.txtBuf = t.txtBuf
  | .value => s.value = t.value

/-- The faults a command can raise of its own (60_exceptions.md R211), `Overflow` apart. -/
def ownFaults : Instr → List Cause
  | .xxteaEnc => [.keyTooShort, .zeroWords]
  | .xxteaDec => [.keyTooShort, .zeroWords]
  | .crc32 => []
  | .deflate => []
  | .inflate => [.malformedStream]
  | .parseU32le => [.outOfRange]
  | .writeU32le => [.outOfRange]
  | .b2w => []
  | .w2b => []
  | .reorder => []
  | .hexDec => [.badDigit]
  | .hexEnc => []
  | .a2b => []
  | .b2a => []

/-- The commands whose result can be longer than an input that fits (R211). -/
def mayOverflow : Instr → Bool
  | .deflate => true
  | .inflate => true
  | .w2b => true
  | .hexEnc => true
  | .crc32 => true
  | .xxteaEnc => false
  | .xxteaDec => false
  | .parseU32le => false
  | .writeU32le => false
  | .b2w => false
  | .reorder => false
  | .hexDec => false
  | .a2b => false
  | .b2a => false

end Sys2Proof.Machine
end

