-- ==== Sys2Proof/Certificates/Slice0/Obligations.lean ====
section
/-! DEFINITION. The statements for the provers, each with the rule of spec/ it formalises. A successful command is written as the
whole next state, `{ s with <result>, code := 0, valid := true }`, so each such statement is the command's frame as well. -/

open Sys2Proof Sys2Proof.Machine

/-! ## Encoding and the step -/

/-- 30_encoding.md R50, R52: each command's word decodes to it, and no other value decodes to it. -/
def Obligations.DecodeIsInverseOfEncode : Prop :=
  (∀ i : Instr, decode (encode i) = .ok i) ∧ ∀ (c : Word) (i : Instr), decode c = .ok i → c = encode i

/-- R52: words of every family, written out from the opcode map, decode to their commands. -/
def Obligations.SpecWordsDecode : Prop :=
  decode 0x00000001#32 = .ok .xxteaEnc ∧ decode 0x00000002#32 = .ok .xxteaDec ∧ decode 0x00000010#32 = .ok .crc32 ∧
  decode 0x00000020#32 = .ok .deflate ∧ decode 0x00000021#32 = .ok .inflate ∧ decode 0x00000031#32 = .ok .writeU32le ∧
  decode 0x00000034#32 = .ok .reorder ∧ decode 0x00000040#32 = .ok .hexDec ∧ decode 0x00000043#32 = .ok .b2a

/-- R53: every other value is illegal (242 opcodes with `RSV = 0`, 0 among them, and every value with `RSV ≠ 0`), raises
`IllegalCommand` and changes nothing but `CMD` and `STATUS`; the decoder is total. -/
def Obligations.OtherValuesAreIllegal : Prop :=
  (∀ c : Word, (∃ i, decode c = .ok i) ∨ (∃ e, decode c = .error e)) ∧
  decode 0#32 = .error .unassignedOpcode ∧
  ((List.range 256).filter fun n => (decode (BitVec.ofNat 32 n)).toOption.isNone).length = 242 ∧
  (∀ c : Word, reservedField c ≠ 0#24 → decode c = .error .reservedBitsSet) ∧
  ∀ (c : Word) (s : State), (∀ i, c ≠ encode i) →
    issueCommand c s = .next { s with cmd := c, code := 1#8, valid := true, sticky := true }

/-- R51, R53: where the host's next action writes a value to `CMD`, the step issues it with the action no longer pending: `exec i` on the
state in which `CMD` holds the value where it decodes to `i`, `IllegalCommand` there where it decodes to nothing; and the step after
`withFetchWord` runs exactly the placed command. (The pending actions are the MODEL's, log entry 1.) -/
def Obligations.StepRunsTheDecodedCommand : Prop :=
  (∀ (s : State) (c : Word) (rest : List HostAction) (i : Instr), s.script = .writeCmd c :: rest → decode c = .ok i →
    step s = exec i { s with cmd := c, script := rest }) ∧
  (∀ (s : State) (c : Word) (rest : List HostAction), s.script = .writeCmd c :: rest →
    step s = issueCommand c { s with script := rest }) ∧
  (∀ (s : State) (c : Word) (rest : List HostAction) (e : DecodeError), s.script = .writeCmd c :: rest → decode c = .error e →
    step s = .next { s with cmd := c, script := rest, code := 1#8, valid := true, sticky := true }) ∧
  ∀ (s : State) (i : Instr), step (s.withFetchWord 32 (encode i).toNat) = exec i { s with cmd := encode i }

/-- 10_state.md R22, R15; 30_encoding.md R57; 70_reset_and_hazards.md R241: what each host action that fits does, a write to `STATUS`
nothing; with no action pending the block is idle (that the host's actions are a list in State is the model's, log entry 1). -/
def Obligations.HostActionsWriteTheirTargets : Prop :=
  ∀ (s : State) (rest : List HostAction),
    (s.script = [] → step s = .next s) ∧
    (∀ b, s.script = .writeIn b :: rest → s.cfg.fits b.length = true →
      step s = .next { s with inBuf := b, script := rest }) ∧
    (∀ b, s.script = .writeKey b :: rest → s.cfg.fits b.length = true →
      step s = .next { s with keyBuf := b, script := rest }) ∧
    (∀ w, s.script = .writeWrd w :: rest → s.cfg.fits w.length = true →
      step s = .next { s with wrdBuf := w, script := rest }) ∧
    (∀ t, s.script = .writeTxt t :: rest → s.cfg.fits t.length = true → (∀ c ∈ t, c < 2 ^ s.cfg.charW) →
      step s = .next { s with txtBuf := t, script := rest }) ∧
    (∀ v, s.script = .writeOffset v :: rest → step s = .next { s with offset := v, script := rest }) ∧
    (∀ v, s.script = .writeValue v :: rest → step s = .next { s with value := v, script := rest }) ∧
    (∀ v, s.script = .writeStatus v :: rest → step s = .next { s with script := rest }) ∧
    (∀ b, s.script = .copyOutToIn b :: rest → s.cfg.fits (s.outBuf.length + b.length) = true →
      step s = .next { s with inBuf := s.outBuf ++ b, script := rest }) ∧
    (∀ b, s.script = .appendIn b :: rest → s.cfg.fits (s.inBuf.length + b.length) = true →
      step s = .next { s with inBuf := s.inBuf ++ b, script := rest }) ∧
    (s.script = .copyOutToKey :: rest → s.cfg.fits s.outBuf.length = true →
      step s = .next { s with keyBuf := s.outBuf, script := rest })

/-- The MODEL's choice (log entry 4) for what R25 and R19 say the host cannot do: the model stops, by name. -/
def Obligations.ImpossibleHostWritesStop : Prop :=
  ∀ (s : State) (rest : List HostAction),
    (∀ b, s.script = .writeIn b :: rest → s.cfg.fits b.length = false → step s = .fault .hostContentTooLong) ∧
    (∀ b, s.script = .writeKey b :: rest → s.cfg.fits b.length = false → step s = .fault .hostContentTooLong) ∧
    (∀ w, s.script = .writeWrd w :: rest → s.cfg.fits w.length = false → step s = .fault .hostContentTooLong) ∧
    (∀ t, s.script = .writeTxt t :: rest → (∀ c ∈ t, c < 2 ^ s.cfg.charW) → s.cfg.fits t.length = false →
      step s = .fault .hostContentTooLong) ∧
    (∀ t, s.script = .writeTxt t :: rest → (∃ c ∈ t, 2 ^ s.cfg.charW ≤ c) → step s = .fault .hostNotACharacter) ∧
    (∀ b, s.script = .copyOutToIn b :: rest → s.cfg.fits (s.outBuf.length + b.length) = false →
      step s = .fault .hostContentTooLong) ∧
    ∀ b, s.script = .appendIn b :: rest → s.cfg.fits (s.inBuf.length + b.length) = false →
      step s = .fault .hostContentTooLong

/-! ## Reset, STATUS, faults -/

/-- R23: every item has its reset value, under every configuration. That `State.reset` has the defaults of R6 is the MODEL's choice (log
entry 2). -/
def Obligations.ResetValues : Prop :=
  (∀ cfg : Config,
    (State.resetWith cfg).inBuf = [] ∧ (State.resetWith cfg).keyBuf = [] ∧ (State.resetWith cfg).outBuf = [] ∧
    (State.resetWith cfg).wrdBuf = [] ∧ (State.resetWith cfg).txtBuf = [] ∧ (State.resetWith cfg).offset = 0#32 ∧
    (State.resetWith cfg).value = 0#32 ∧ (State.resetWith cfg).cmd = 0#32 ∧ statusWord (State.resetWith cfg) = 0#32) ∧
  State.reset = State.resetWith Config.default

/-- R240: reset, at any time between commands, puts every item at its reset value, and nothing else clears `STICKY` or `VALID`. That the
pending host actions and the parameters stay is the MODEL's choice (log entries 1 and 2). -/
def Obligations.OnlyResetClearsStickyAndValid : Prop :=
  (∀ (s : State) (rest : List HostAction), s.script = .reset :: rest →
    step s = .next
      { inBuf := [], keyBuf := [], outBuf := [], wrdBuf := [], txtBuf := [], offset := 0#32, value := 0#32,
        cmd := 0#32, code := 0#8, valid := false, sticky := false, cfg := s.cfg, script := rest }) ∧
  ∀ (s t : State) (a : HostAction) (rest : List HostAction), s.script = a :: rest → a ≠ .reset → step s = .next t →
    (s.sticky = true → t.sticky = true) ∧ (s.valid = true → t.valid = true)

/-- R14, R15: after any write to `CMD` the register holds the value, `STATUS` describes this command (`VALID` set, a code of R210,
`STICKY` set exactly by a fault), and the register's bits are the fields, bits 31:10 zero. -/
def Obligations.StatusDescribesTheLastCommand : Prop :=
  (∀ (c : Word) (s t : State), issueCommand c s = .next t →
    t.cmd = c ∧ t.valid = true ∧ t.code.toNat ≤ 7 ∧ t.sticky = (s.sticky || decide (t.code ≠ 0#8))) ∧
  ∀ s : State, (statusWord s).extractLsb' 0 8 = s.code ∧ (statusWord s).getLsbD 8 = s.valid ∧
    (statusWord s).getLsbD 9 = s.sticky ∧ (statusWord s).extractLsb' 10 22 = 0#22

/-- 60_exceptions.md R217: `STICKY` read once at the end of a script without reset says whether any of its commands faulted. -/
def Obligations.StickyTellsWhetherAScriptRanClean : Prop :=
  ∀ (as : List HostAction) (s t : State), HostAction.reset ∉ as → runActions as s = .next t →
    (ranClean t = true ↔ ranClean s = true ∧
      ∀ (pre post : List HostAction) (c : Word) (u : State), as = pre ++ .writeCmd c :: post →
        runActions (pre ++ [.writeCmd c]) s = .next u → u.code = 0#8)

/-- The invariant: an admitted configuration (R6), buffers within `BUF_MAX` (R25) and characters within `CHAR_W` bits (R19), a legal
`STATUS` (R15). Every step keeps it, from every state that has it. -/
def Obligations.StepKeepsTheInvariant : Prop :=
  ∀ s t : State, s.Inv → step s = .next t → t.Inv

/-- The invariant holds at reset, under every admitted configuration. -/
def Obligations.ResetMeetsTheInvariant : Prop :=
  State.reset.Inv ∧ ∀ cfg : Config, cfg.wellFormed = true → (State.resetWith cfg).Inv

/-- R242, R256: every command, from every state, ends in a next state: with success, or with one of the seven faults taken and nothing
else changed. -/
def Obligations.EveryCommandEnds : Prop :=
  ∀ (i : Instr) (s : State), ∃ t, exec i s = .next t ∧ t.valid = true ∧
    ((t.code = 0#8 ∧ t.sticky = s.sticky) ∨
      ∃ f : Cause, t = { s with code := causeCode f, valid := true, sticky := true })

/-- R214: a command that ends with a non-zero code has written `STATUS` and `CMD` and nothing else. -/
def Obligations.FaultChangesOnlyStatusAndCmd : Prop :=
  ∀ (c : Word) (s t : State), issueCommand c s = .next t → t.code ≠ 0#8 →
    t = { s with cmd := c, code := t.code, valid := true, sticky := true } ∧ ∃ f : Cause, t.code = causeCode f

/-- R215, R52 (column "Writes"): a command that succeeds clears `CODE`, sets `VALID`, keeps `STICKY`, and changes no item but the one
its row names. -/
def Obligations.SuccessChangesOnlyTheResult : Prop :=
  ∀ (c : Word) (s t : State), issueCommand c s = .next t → t.code = 0#8 →
    ∃ i, decode c = .ok i ∧ t.cmd = c ∧ t.valid = true ∧ t.sticky = s.sticky ∧ t.inBuf = s.inBuf ∧ t.keyBuf = s.keyBuf ∧
      t.offset = s.offset ∧ t.cfg = s.cfg ∧ t.script = s.script ∧
      (resultItem i ≠ .out → t.outBuf = s.outBuf) ∧ (resultItem i ≠ .wrd → t.wrdBuf = s.wrdBuf) ∧
      (resultItem i ≠ .txt → t.txtBuf = s.txtBuf) ∧ (resultItem i ≠ .value → t.value = s.value)

/-- R211: which command can raise what, where the buffers hold what fits: nothing but the listed faults, each of which some state shows;
the cipher raises nothing for what the data and the key contain. -/
def Obligations.FaultsOfEachCommand : Prop :=
  (∀ (i : Instr) (s t : State), Memory.wf s = true → exec i s = .next t →
    t.code = 0#8 ∨ (∃ f ∈ ownFaults i, t.code = causeCode f) ∨
      (mayOverflow i = true ∧ s.cfg.bufMax ≠ none ∧ t.code = causeCode .overflow)) ∧
  (∀ (i : Instr) (f : Cause), f ∈ ownFaults i ∨ (mayOverflow i = true ∧ f = .overflow) →
    ∃ s t, Memory.wf s = true ∧ exec i s = .next t ∧ t.code = causeCode f) ∧
  ∀ (s t : State), Memory.wf s = true → 8 ≤ s.inBuf.length → 16 ≤ s.keyBuf.length →
    exec .xxteaEnc s = .next t ∨ exec .xxteaDec s = .next t → t.code = 0#8

/-- 20_memory.md R37: a command repeated with unchanged inputs gives the same state again. -/
def Obligations.RepeatedCommandIsIdempotent : Prop :=
  ∀ (i : Instr) (s t : State), exec i s = .next t → exec i t = .next t

/-- R20, R37, 42_crc32.md R93: the code and the result of a command depend on its operands (R52, column "Reads") and the parameters
alone, whatever the history left elsewhere. -/
def Obligations.OutcomeDependsOnOperandsOnly : Prop :=
  ∀ (i : Instr) (s1 s2 t1 t2 : State), readsAgree i s1 s2 → s1.cfg = s2.cfg →
    exec i s1 = .next t1 → exec i s2 = .next t2 →
    t1.code = t2.code ∧ (t1.code = 0#8 → itemAgrees (resultItem i) t1 t2)

/-! ## The cipher -/

/-- 41_xxtea.md R77: empty input succeeds with empty output, whatever `KEY` is. -/
def Obligations.CipherOfEmptyInputIsEmpty : Prop :=
  ∀ s : State, s.inBuf = [] →
    exec .xxteaEnc s = .next { s with outBuf := [], code := 0#8, valid := true } ∧
    exec .xxteaDec s = .next { s with outBuf := [], code := 0#8, valid := true }

/-- R78: non-empty input and a key below 16 bytes is `KeyTooShort` with nothing written (also for one to three bytes, R213); bytes of
`KEY` from 16 on are ignored: more of them change nothing but `KEY` itself. -/
def Obligations.CipherChecksTheKeyLength : Prop :=
  (∀ s : State, s.inBuf ≠ [] → s.keyBuf.length < 16 →
    exec .xxteaEnc s = .next { s with code := 3#8, valid := true, sticky := true } ∧
    exec .xxteaDec s = .next { s with code := 3#8, valid := true, sticky := true }) ∧
  ∀ (s t : State) (extra : List Byte), 16 ≤ s.keyBuf.length →
    (exec .xxteaEnc s = .next t →
      exec .xxteaEnc (s.setKey (s.keyBuf ++ extra)) = .next (t.setKey (s.keyBuf ++ extra))) ∧
    (exec .xxteaDec s = .next t →
      exec .xxteaDec (s.setKey (s.keyBuf ++ extra)) = .next (t.setKey (s.keyBuf ++ extra)))

/-- R76: one to three bytes under a full key is `ZeroWords`, nothing written. -/
def Obligations.CipherOfNoWordFaults : Prop :=
  ∀ s : State, 1 ≤ s.inBuf.length → s.inBuf.length ≤ 3 → 16 ≤ s.keyBuf.length →
    exec .xxteaEnc s = .next { s with code := 4#8, valid := true, sticky := true } ∧
    exec .xxteaDec s = .next { s with code := 4#8, valid := true, sticky := true }

/-- R75: one word passes through unchanged under `XXTEA_D1 = identity` and is `ZeroWords` under `fault`. -/
def Obligations.CipherOfOneWord : Prop :=
  ∀ s : State, Memory.wf s = true → 4 ≤ s.inBuf.length → s.inBuf.length ≤ 7 → 16 ≤ s.keyBuf.length →
    (s.cfg.xxteaD1 = .identity →
      exec .xxteaEnc s = .next { s with outBuf := s.inBuf.take 4, code := 0#8, valid := true } ∧
      exec .xxteaDec s = .next { s with outBuf := s.inBuf.take 4, code := 0#8, valid := true }) ∧
    (s.cfg.xxteaD1 = .fault →
      exec .xxteaEnc s = .next { s with code := 4#8, valid := true, sticky := true } ∧
      exec .xxteaDec s = .next { s with code := 4#8, valid := true, sticky := true })

/-- R70, R73, R74, R81: from two words on both commands complete; the result is the `4*d` bytes whose words are those after the rounds. -/
def Obligations.CipherTransformsTwoOrMoreWords : Prop :=
  ∀ s : State, Memory.wf s = true → 8 ≤ s.inBuf.length → 16 ≤ s.keyBuf.length →
    (∃ out, exec .xxteaEnc s = .next { s with outBuf := out, code := 0#8, valid := true } ∧
      out.length = 4 * (s.inBuf.length / 4) ∧
      wordsLe out = encryptWords s.cfg (wordsLe (s.keyBuf.take 16)) (wordsLe s.inBuf)) ∧
    (∃ out, exec .xxteaDec s = .next { s with outBuf := out, code := 0#8, valid := true } ∧
      out.length = 4 * (s.inBuf.length / 4) ∧
      wordsLe out = decryptWords s.cfg (wordsLe (s.keyBuf.take 16)) (wordsLe s.inBuf))

/-- R72, R73, R74: encryption sweeps with `sum = DELTA, 2 DELTA, ..., rounds DELTA`; decryption sweeps backward with the same sums in
reverse. -/
def Obligations.RoundsSweepWithMultiplesOfDelta : Prop :=
  ∀ (cfg : Config) (g s : List Word),
    encryptWords cfg g s = (List.range (6 + 52 / s.length)).foldl
      (fun w k => encSweep cfg g (BitVec.ofNat 32 (k + 1) * 0x9E3779B9#32) w) s ∧
    decryptWords cfg g s = (List.range (6 + 52 / s.length)).reverse.foldl
      (fun w k => decSweep cfg g (BitVec.ofNat 32 (k + 1) * 0x9E3779B9#32) w) s

/-- R71, R73, R74, R80: what one sweep does, the formula of R71 written out. A forward sweep adds to each word the mix of its next word
(not yet swept, but for the last position, whose next word is the swept first) and its previous word (swept, but for the first position,
whose previous word is the last as it was); a backward sweep subtracts it, with swept and unswept words exchanged. -/
def Obligations.SweepMixesEachWordWithItsNeighbours : Prop :=
  ∀ (cfg : Config) (g s : List Word) (sum : Word), 2 ≤ s.length →
    let shr : Word → Nat → Word := fun a n => if cfg.xxteaShr = .logical then a >>> n else a.sshiftRight n
    let formula : Word → Word → Nat → Word := fun y z p =>
      ((shr y 5 ^^^ (z <<< 2)) + (shr z 3 ^^^ (y <<< 4))) ^^^
        ((sum ^^^ z) + (g.getD ((p % 4) ^^^ (sum.toNat / 4 % 4)) 0#32 ^^^ y))
    let mixOf : Word → Word → Nat → Word := fun nxt prv p =>
      if cfg.xxteaYZ = .literal then formula nxt prv p else formula prv nxt p
    (∀ w, w = encSweep cfg g sum s → w.length = s.length ∧ ∀ p, p < s.length →
      w.getD p 0#32 = s.getD p 0#32 +
        mixOf (if p + 1 = s.length then w.getD 0 0#32 else s.getD (p + 1) 0#32)
          (if p = 0 then s.getD (s.length - 1) 0#32 else w.getD (p - 1) 0#32) p) ∧
    ∀ w, w = decSweep cfg g sum s → w.length = s.length ∧ ∀ p, p < s.length →
      w.getD p 0#32 = s.getD p 0#32 -
        mixOf (if p + 1 = s.length then s.getD 0 0#32 else w.getD (p + 1) 0#32)
          (if p = 0 then w.getD (s.length - 1) 0#32 else s.getD (p - 1) 0#32) p

/-- R79: with the same key, decryption of the ciphertext, and encryption of the decrypted text, give the input back without its last
`len mod 4` bytes, for every setting of `XXTEA_YZ` and `XXTEA_SHR` (one word under `XXTEA_D1 = fault` apart, where both fault). -/
def Obligations.CipherRoundTrip : Prop :=
  ∀ s : State, Memory.wf s = true → 16 ≤ s.keyBuf.length →
    s.inBuf.length % 4 = 0 ∨ 4 ≤ s.inBuf.length →
    s.cfg.xxteaD1 = .identity ∨ s.inBuf.length / 4 ≠ 1 →
    (∃ t u, exec .xxteaEnc s = .next t ∧ exec .xxteaDec (t.setIn t.outBuf) = .next u ∧ u.code = 0#8 ∧
      u.outBuf = s.inBuf.take (s.inBuf.length - s.inBuf.length % 4)) ∧
    (∃ t u, exec .xxteaDec s = .next t ∧ exec .xxteaEnc (t.setIn t.outBuf) = .next u ∧ u.code = 0#8 ∧
      u.outBuf = s.inBuf.take (s.inBuf.length - s.inBuf.length % 4))

/-- R80: for two words the settings of `XXTEA_YZ` agree; `swapped` is the standard mixing function of the next word `y` and the
previous word `z`. -/
def Obligations.NeighbourOrderIsStandardWhenSwapped : Prop :=
  (∀ (cfg : Config) (data key : List Byte), data.length / 4 = 2 →
    encryptResult { cfg with xxteaYZ := .literal } data key = encryptResult { cfg with xxteaYZ := .swapped } data key ∧
    decryptResult { cfg with xxteaYZ := .literal } data key = decryptResult { cfg with xxteaYZ := .swapped } data key) ∧
  ∀ (cfg : Config) (g s : List Word) (sum y z : Word) (p : Nat),
    cfg.xxteaYZ = .swapped → cfg.xxteaShr = .logical → p < s.length →
    s[(p + 1) % s.length]? = some y → s[(p + s.length - 1) % s.length]? = some z →
    mixAt cfg g sum s p =
      (((z >>> 5) ^^^ (y <<< 2)) + ((y >>> 3) ^^^ (z <<< 4))) ^^^
        ((sum ^^^ y) + (g.getD ((p % 4) ^^^ (sum.toNat / 4 % 4)) 0#32 ^^^ z))

/-! ## The checksum -/

/-- 42_crc32.md R91, R90: `CRC32` completes with the four bytes of the checksum, most significant first, but for `Overflow` where four
bytes do not fit; the check value. -/
def Obligations.Crc32WritesTheChecksum : Prop :=
  (∀ s : State, s.cfg.fits 4 = true →
    exec .crc32 s = .next { s with
      outBuf := [(crcOf s.inBuf).extractLsb' 24 8, (crcOf s.inBuf).extractLsb' 16 8, (crcOf s.inBuf).extractLsb' 8 8,
        (crcOf s.inBuf).extractLsb' 0 8], code := 0#8, valid := true }) ∧
  (∀ s : State, s.cfg.fits 4 = false → exec .crc32 s = .next { s with code := 7#8, valid := true, sticky := true }) ∧
  crcOf [0x31#8, 0x32#8, 0x33#8, 0x34#8, 0x35#8, 0x36#8, 0x37#8, 0x38#8, 0x39#8] = 0xCBF43926#32 ∧ crcOf [] = 0#32

/-- R92: the result is `REORDER` of the little-endian bytes; parsed as it stands it reads byte-swapped; after `REORDER` it parses to the
checksum. -/
def Obligations.ChecksumByteOrder : Prop :=
  (∀ c : Word, bytesBe32 c = reorderGroups (bytesLe32 c)) ∧
  ∀ s t : State, exec .crc32 s = .next t → t.code = 0#8 →
    (∃ u, exec .parseU32le ((t.setIn t.outBuf).setOffset 0#32) = .next u ∧ u.code = 0#8 ∧
      bytesLe32 u.value = (bytesLe32 (crcOf s.inBuf)).reverse) ∧
    (∃ v w, exec .reorder (t.setIn t.outBuf) = .next v ∧
      exec .parseU32le ((v.setIn v.outBuf).setOffset 0#32) = .next w ∧ w.code = 0#8 ∧ w.value = crcOf s.inBuf)

/-- R90: the bit-by-bit block P90 equals the table-driven form, one table entry a byte. -/
def Obligations.ChecksumEqualsTableDrivenForm : Prop :=
  ∀ data : List Byte,
    crcOf data = data.foldl (fun (r : Word) (v : Byte) => (r >>> 8) ^^^ crcShifts 8 ((r ^^^ v.setWidth 32) &&& 0xFF#32)) 0xFFFFFFFF#32
      ^^^ 0xFFFFFFFF#32

/-! ## Compression -/

/-- 43_deflate.md R101, R25: `DEFLATE` completes with `DEFLATE_FN(IN)` where it fits and is `Overflow` where it does not; under every
configuration that output inflates to the input and is consumed whole; and every function that meets R101 (b) on the inputs `xs` is the
`DEFLATE_FN` of some configuration there (R6). (How a configuration holds a function is the MODEL's choice and what an unnamed compressor
offers is a free value, log entry 5.) -/
def Obligations.DeflateOutputInflatesToTheInput : Prop :=
  (∀ (cfg : Config) (fn : List Byte → List Byte) (xs : List (List Byte)),
    (∀ x ∈ xs, inflateWrapped cfg.deflateWrap (fn x) = some (x, [])) →
    (∀ x ∈ xs, deflateFn (withDeflateFn cfg fn xs) x = fn x) ∧
    ∀ s : State, s.cfg = withDeflateFn cfg fn xs → s.inBuf ∈ xs → exec .deflate s = deflateWith fn s) ∧
  ∀ s : State,
    (s.cfg.fits (deflateFn s.cfg s.inBuf).length = true →
      exec .deflate s = .next { s with outBuf := deflateFn s.cfg s.inBuf, code := 0#8, valid := true }) ∧
    (s.cfg.fits (deflateFn s.cfg s.inBuf).length = false →
      exec .deflate s = .next { s with code := 7#8, valid := true, sticky := true }) ∧
    inflateWrapped s.cfg.deflateWrap (deflateFn s.cfg s.inBuf) = some (s.inBuf, [])

/-- R104: the length of the default compressor's output. -/
def Obligations.StoredEncoderLength : Prop :=
  ∀ x : List Byte, (storedEncoder .zlib x).length = x.length + 6 + 5 * max 1 ((x.length + 65534) / 65535)

/-- R103: `DEFLATE`, `IN <- OUT`, `INFLATE` succeeds and leaves the original input in `OUT`, wherever the buffers can hold the input and
the stream; the converse does not hold. -/
def Obligations.CompressionRoundTrip : Prop :=
  (∀ s : State, s.cfg.fits s.inBuf.length = true → s.cfg.fits (deflateFn s.cfg s.inBuf).length = true →
    ∃ t u, exec .deflate s = .next t ∧ exec .inflate (t.setIn t.outBuf) = .next u ∧ u.code = 0#8 ∧ u.outBuf = s.inBuf) ∧
  ∃ s t u : State, exec .inflate s = .next t ∧ t.code = 0#8 ∧ exec .deflate (t.setIn t.outBuf) = .next u ∧ u.code = 0#8 ∧
    u.outBuf ≠ s.inBuf

/-- R102, R25: `INFLATE` completes with the stream's bytes where the stream is well formed and its bytes fit, and is `Overflow` where they do
not fit; where it is not well formed, it is `MalformedStream`; after a fault `OUT` is unchanged. -/
def Obligations.InflateYieldsTheStreamOrFaults : Prop :=
  (∀ (s : State) (out left : List Byte), inflateWrapped s.cfg.deflateWrap s.inBuf = some (out, left) →
    (s.cfg.fits out.length = true → exec .inflate s = .next { s with outBuf := out, code := 0#8, valid := true }) ∧
    (s.cfg.fits out.length = false → exec .inflate s = .next { s with code := 7#8, valid := true, sticky := true })) ∧
  ∀ s : State, inflateWrapped s.cfg.deflateWrap s.inBuf = none →
    exec .inflate s = .next { s with code := 5#8, valid := true, sticky := true }

/-- R115: bytes after the end of the stream change nothing, in every wrapper. -/
def Obligations.TrailingBytesAreIgnored : Prop :=
  ∀ (w : DeflateWrap) (b out left tail : List Byte), inflateWrapped w b = some (out, left) →
    inflateWrapped w (b ++ tail) = some (out, left ++ tail)

/-- R105, R106, R116: an accepted zlib stream has a header that passes every check and, before the bytes left over, the Adler-32 of its
output, most significant byte first; Adler-32 of no byte, of `61 62 63` and of "Wikipedia" is as R106 gives it. -/
def Obligations.AcceptedZlibStreamIsWrapped : Prop :=
  (∀ b out left : List Byte, inflateZlib b = some (out, left) →
    ∃ (cmf flg : Byte) (mid : List Byte), b = cmf :: flg :: (mid ++ bytesBe32 (adler32 out) ++ left) ∧
      cmf.toNat % 16 = 8 ∧ cmf.toNat / 16 ≤ 7 ∧ (256 * cmf.toNat + flg.toNat) % 31 = 0 ∧ flg.getLsbD 5 = false) ∧
  adler32 [] = 0x00000001#32 ∧ adler32 [0x61#8, 0x62#8, 0x63#8] = 0x024D0127#32 ∧
  adler32 [0x57#8, 0x69#8, 0x6B#8, 0x69#8, 0x70#8, 0x65#8, 0x64#8, 0x69#8, 0x61#8] = 0x11E60398#32

/-- R107: from the start of a byte sequence, `bits(n)` reads bits `0 .. n-1` as `b[i div 8][i mod 8]`, the first the least significant,
leaves the reader at bit `n`, and fails exactly where fewer than `n` bits are there. -/
def Obligations.BitReaderFollowsTheBitNumbering : Prop :=
  (∀ (b : List Byte) (n v : Nat) (r : BitReader), readBits n (readerAt b) = some (v, r) →
    r.rest = b.drop (n / 8) ∧ r.used = n % 8 ∧ v < 2 ^ n ∧
    (∀ i, i < n → v.testBit i = (b.getD (i / 8) 0#8).getLsbD (i % 8)) ∧
    (readBit r).map Prod.fst = (b[n / 8]?).map fun x => x.getLsbD (n % 8)) ∧
  ∀ (b : List Byte) (n : Nat), readBits n (readerAt b) = none ↔ 8 * b.length < n

/-- R111: the codes the rule of R110 gives to the fixed lengths: 7-bit codes from 0 for 256 to 279; 8-bit codes from 48 for 0 to 143 and
on for 280 to 287; 9-bit codes from 400 for 144 to 255; distance symbol `i` the 5-bit value `i`. -/
def Obligations.FixedCodesAreAsListed : Prop :=
  (codeOf fixedLitLengths)[6]? = some ⟨0, List.range' 256 24⟩ ∧
  (codeOf fixedLitLengths)[7]? = some ⟨48, List.range' 0 144 ++ List.range' 280 8⟩ ∧
  (codeOf fixedLitLengths)[8]? = some ⟨400, List.range' 144 112⟩ ∧
  (codeOf fixedDistLengths)[4]? = some ⟨0, List.range' 0 32⟩

/-- R113: the length table has 29 rows (symbols 257 to 285), the distance table 30; the extra bits by row; each base is the one before plus
two to its extra bits, but for the last length, 258; lengths are 3 to 258 and distances 1 to 32768. -/
def Obligations.LengthAndDistanceTables : Prop :=
  lengthTable.length = 29 ∧ distanceTable.length = 30 ∧
  (∀ i, i < 28 → (lengthTable.getD i (0, 0)).1 = if i < 8 then 0 else i / 4 - 1) ∧
  (∀ i, i < 30 → (distanceTable.getD i (0, 0)).1 = if i < 2 then 0 else i / 2 - 1) ∧
  (lengthTable.getD 0 (0, 0)).2 = 3 ∧ (distanceTable.getD 0 (0, 0)).2 = 1 ∧ lengthTable.getD 28 (0, 0) = (0, 258) ∧
  (∀ i, i < 27 → (lengthTable.getD (i + 1) (0, 0)).2 =
    (lengthTable.getD i (0, 0)).2 + 2 ^ (lengthTable.getD i (0, 0)).1) ∧
  (∀ i, i < 29 → (distanceTable.getD (i + 1) (0, 0)).2 =
    (distanceTable.getD i (0, 0)).2 + 2 ^ (distanceTable.getD i (0, 0)).1) ∧
  (∀ row ∈ lengthTable, 3 ≤ row.2 ∧ row.2 + 2 ^ row.1 - 1 ≤ 258) ∧
  ∀ row ∈ distanceTable, 1 ≤ row.2 ∧ row.2 + 2 ^ row.1 - 1 ≤ 32768

/-- R114: a copy appends `len` bytes, the `i`-th being the one `dist` before it, so that a distance below the length repeats what it has
just written; what was there stays. (The model holds the output newest byte first.) -/
def Obligations.CopyRepeatsTheLastBytes : Prop :=
  ∀ (dist len : Nat) (out : List Byte), 1 ≤ dist → dist ≤ out.length →
    (copyBack dist len out).length = out.length + len ∧
    (copyBack dist len out).reverse.take out.length = out.reverse ∧
    ∀ i, i < len → (copyBack dist len out).reverse[out.length + i]? = out.reverse[out.length - dist + i % dist]?

/-- 70_reset_and_hazards.md R256, R108, R112, R114: every fuelled loop over the stream (blocks, symbols of a body, code lengths) has fuel
enough: more than the model gives changes nothing. (The recursion on fuel is the MODEL's representation, log entry 10.) -/
def Obligations.BitsLeftBoundEveryLoop : Prop :=
  (∀ (k : Nat) (r : BitReader) (out : List Byte), r.used < 8 →
    inflateBlocks (bitsLeft r + k) r out = inflateBlocks (bitsLeft r) r out) ∧
  (∀ (lit dist : List CodeLevel) (k : Nat) (r : BitReader) (out : List Byte), r.used < 8 →
    inflateBody lit dist (bitsLeft r + k) r out = inflateBody lit dist (bitsLeft r) r out) ∧
  ∀ (code : List CodeLevel) (total k : Nat) (r : BitReader) (acc : List Nat),
    readLengths code total (total + 1 - acc.length + k) r acc = readLengths code total (total + 1 - acc.length) r acc

/-- 43_deflate.md R112, R110: a dynamic header that is accepted gives codes of the admitted sizes, with lengths up to 15, an end-of-block
code, neither over-subscribed nor incomplete outside the two exceptions. -/
def Obligations.AcceptedDynamicHeaderIsSound : Prop :=
  ∀ (r r1 : BitReader) (codes : DynamicCodes), readDynamicHeader r = some (codes, r1) →
    257 ≤ codes.lit.length ∧ codes.lit.length ≤ 286 ∧ 1 ≤ codes.dist.length ∧ codes.dist.length ≤ 30 ∧
    (∀ l ∈ codes.lit ++ codes.dist, l ≤ 15) ∧ codes.lit.getD 256 0 ≠ 0 ∧
    (kraftSum codes.lit = 2 ^ 15 ∨ codes.lit.filter (fun l => decide (l ≠ 0)) = [1]) ∧
    (kraftSum codes.dist = 2 ^ 15 ∨ codes.dist.filter (fun l => decide (l ≠ 0)) = [1] ∨ ∀ l ∈ codes.dist, l = 0)

/-! ## Byte order -/

/-- 44_byte_order.md R140: `PARSE_U32LE` writes `VALUE` with the little-endian value of the four bytes at `OFFSET`; where fewer than four
remain, without wrap, it is `OutOfRange` and `VALUE` stays. -/
def Obligations.ParseReadsALittleEndianWord : Prop :=
  (∀ (s : State) (b0 b1 b2 b3 : Byte),
    s.inBuf[s.offset.toNat]? = some b0 → s.inBuf[s.offset.toNat + 1]? = some b1 →
    s.inBuf[s.offset.toNat + 2]? = some b2 → s.inBuf[s.offset.toNat + 3]? = some b3 →
    ∃ v : Word, v.toNat = b0.toNat + 256 * b1.toNat + 65536 * b2.toNat + 16777216 * b3.toNat ∧
      exec .parseU32le s = .next { s with value := v, code := 0#8, valid := true }) ∧
  ∀ s : State, s.inBuf.length < s.offset.toNat + 4 →
    exec .parseU32le s = .next { s with code := 2#8, valid := true, sticky := true }

/-- R141: `WRITE_U32LE` puts into `OUT` the copy of `IN` with the four bytes at `OFFSET` those of `VALUE`, least significant first; the
same bound check, and no append. -/
def Obligations.WriteReplacesFourBytes : Prop :=
  (∀ s : State, Memory.wf s = true → s.offset.toNat + 4 ≤ s.inBuf.length →
    ∃ out, exec .writeU32le s = .next { s with outBuf := out, code := 0#8, valid := true } ∧
      out.length = s.inBuf.length ∧
      (∀ j, j < 4 → out[s.offset.toNat + j]? = some (s.value.extractLsb' (8 * j) 8)) ∧
      ∀ i, i < s.offset.toNat ∨ s.offset.toNat + 4 ≤ i → out[i]? = s.inBuf[i]?) ∧
  ∀ s : State, s.inBuf.length < s.offset.toNat + 4 →
    exec .writeU32le s = .next { s with code := 2#8, valid := true, sticky := true }

/-- R142: `B2W` groups `IN` into `len div 4` little-endian words, a remainder dropped without a fault. -/
def Obligations.B2wGroupsBytesIntoWords : Prop :=
  ∀ s : State, Memory.wf s = true →
    ∃ w, exec .b2w s = .next { s with wrdBuf := w, code := 0#8, valid := true } ∧ w.length = s.inBuf.length / 4 ∧
      ∀ (i : Nat) (b0 b1 b2 b3 : Byte), s.inBuf[4 * i]? = some b0 → s.inBuf[4 * i + 1]? = some b1 →
        s.inBuf[4 * i + 2]? = some b2 → s.inBuf[4 * i + 3]? = some b3 → w[i]? = some (le32 b0 b1 b2 b3)

/-- R143: `W2B` spreads `WRD` into little-endian bytes; `Overflow` where they are more than `BUF_MAX`. -/
def Obligations.W2bSpreadsWordsIntoBytes : Prop :=
  ∀ s : State,
    (s.cfg.fits (4 * s.wrdBuf.length) = true →
      ∃ out, exec .w2b s = .next { s with outBuf := out, code := 0#8, valid := true } ∧
        out.length = 4 * s.wrdBuf.length ∧
        ∀ (i j : Nat) (w : Word), j < 4 → s.wrdBuf[i]? = some w → out[4 * i + j]? = some (w.extractLsb' (8 * j) 8)) ∧
    (s.cfg.fits (4 * s.wrdBuf.length) = false →
      exec .w2b s = .next { s with code := 7#8, valid := true, sticky := true })

/-- R144: `REORDER` reverses every complete byte group and keeps a shorter tail. -/
def Obligations.ReorderReversesEveryGroup : Prop :=
  ∀ s : State, Memory.wf s = true →
    ∃ out, exec .reorder s = .next { s with outBuf := out, code := 0#8, valid := true } ∧
      out.length = s.inBuf.length ∧
      (∀ i j, 4 * i + 4 ≤ s.inBuf.length → j < 4 → out[4 * i + j]? = s.inBuf[4 * i + 3 - j]?) ∧
      ∀ k, s.inBuf.length - s.inBuf.length % 4 ≤ k → out[k]? = s.inBuf[k]?

/-- R145 (a) to (e): the laws of the byte-order commands, run one after the other with `IN <- OUT` between where the second reads
bytes. -/
def Obligations.ByteOrderLaws : Prop :=
  ∀ s : State, Memory.wf s = true →
    (∃ t u, exec .b2w s = .next t ∧ exec .w2b t = .next u ∧ u.code = 0#8 ∧
      u.outBuf = s.inBuf.take (s.inBuf.length - s.inBuf.length % 4)) ∧
    (s.cfg.fits (4 * s.wrdBuf.length) = true →
      ∃ t u, exec .w2b s = .next t ∧ exec .b2w (t.setIn t.outBuf) = .next u ∧ u.code = 0#8 ∧ u.wrdBuf = s.wrdBuf) ∧
    (∃ t u, exec .reorder s = .next t ∧ exec .reorder (t.setIn t.outBuf) = .next u ∧ u.code = 0#8 ∧ u.outBuf = s.inBuf) ∧
    (∀ i, i < s.inBuf.length / 4 → 4 * i < 2 ^ 32 →
      ∃ t u, exec .b2w s = .next t ∧ exec .parseU32le (s.setOffset (BitVec.ofNat 32 (4 * i))) = .next u ∧ u.code = 0#8 ∧
        t.wrdBuf[i]? = some u.value) ∧
    (∀ v : Word, s.offset.toNat + 4 ≤ s.inBuf.length →
      ∃ t u, exec .writeU32le s = .next t ∧ exec .parseU32le ((t.setIn t.outBuf).setValue v) = .next u ∧ u.code = 0#8 ∧
        u.value = s.value) ∧
    ∃ t u, exec .reorder s = .next t ∧ exec .b2w (t.setIn t.outBuf) = .next u ∧ u.code = 0#8 ∧
      ∀ (i : Nat) (b0 b1 b2 b3 : Byte), s.inBuf[4 * i]? = some b0 → s.inBuf[4 * i + 1]? = some b1 →
        s.inBuf[4 * i + 2]? = some b2 → s.inBuf[4 * i + 3]? = some b3 → u.wrdBuf[i]? = some (be32 b0 b1 b2 b3)

/-! ## Text -/

/-- 45_hex_ascii.md R160: `HEX_DEC` turns the pairs of hex digits into bytes, the first digit the high nibble, an odd last character
neither used nor examined; an examined character that is no digit is `BadDigit`. -/
def Obligations.HexDecodesPairsOfDigits : Prop :=
  (∀ s : State, Memory.wf s = true →
    (∀ i, i < 2 * (s.txtBuf.length / 2) → hexValue (s.txtBuf.getD i 0) ≠ none) →
    ∃ out, exec .hexDec s = .next { s with outBuf := out, code := 0#8, valid := true } ∧
      out.length = s.txtBuf.length / 2 ∧
      ∀ (i h l : Nat), i < s.txtBuf.length / 2 → hexValue (s.txtBuf.getD (2 * i) 0) = some h →
        hexValue (s.txtBuf.getD (2 * i + 1) 0) = some l → (out.getD i 0#8).toNat = 16 * h + l) ∧
  ∀ s : State, (∃ i, i < 2 * (s.txtBuf.length / 2) ∧ hexValue (s.txtBuf.getD i 0) = none) →
    exec .hexDec s = .next { s with code := 6#8, valid := true, sticky := true }

/-- R164: the digits: `hd` writes `0` to `9` and uppercase letters, `hv` reads both cases back, and no other character has a value. -/
def Obligations.HexDigitsReadBack : Prop :=
  (∀ n, n < 16 → hexValue (hexDigit n) = some n) ∧
  (∀ n, n ≤ 9 → hexDigit n = 0x30 + n) ∧
  (∀ n, 10 ≤ n → n < 16 → hexDigit n = 0x41 + (n - 10) ∧ hexValue (0x61 + (n - 10)) = some n) ∧
  ∀ c, hexValue c = none ↔ ¬(0x30 ≤ c ∧ c ≤ 0x39) ∧ ¬(0x41 ≤ c ∧ c ≤ 0x46) ∧ ¬(0x61 ≤ c ∧ c ≤ 0x66)

/-- R161: `HEX_ENC` writes one uppercase digit for a byte below 16 and two for another; its length; `Overflow` where it does not fit. -/
def Obligations.HexEncodesWithoutLeadingZero : Prop :=
  ∀ (s : State) (t : List Nat),
    t = s.inBuf.flatMap (fun v => if v.toNat < 16 then [hexDigit v.toNat]
      else [hexDigit (v.extractLsb' 4 4).toNat, hexDigit (v.extractLsb' 0 4).toNat]) →
    t.length + s.inBuf.countP (fun v => decide (v.toNat < 16)) = 2 * s.inBuf.length ∧
    (s.cfg.fits t.length = true → exec .hexEnc s = .next { s with txtBuf := t, code := 0#8, valid := true }) ∧
    (s.cfg.fits t.length = false → exec .hexEnc s = .next { s with code := 7#8, valid := true, sticky := true })

/-- R162: `A2B` keeps the low byte of each character. -/
def Obligations.A2bKeepsTheLowByte : Prop :=
  ∀ s : State, Memory.wf s = true →
    ∃ out, exec .a2b s = .next { s with outBuf := out, code := 0#8, valid := true } ∧
      out.length = s.txtBuf.length ∧ ∀ (i c : Nat), s.txtBuf[i]? = some c → (out[i]?).map BitVec.toNat = some (c % 256)

/-- R163: `B2A` zero-extends each byte to a character of `CHAR_W` bits; every result character is below 256. -/
def Obligations.B2aZeroExtends : Prop :=
  ∀ s : State, Memory.wf s = true → s.cfg.wellFormed = true →
    ∃ t, exec .b2a s = .next { s with txtBuf := t, code := 0#8, valid := true } ∧ t.length = s.inBuf.length ∧
      (∀ (i : Nat) (v : Byte), s.inBuf[i]? = some v → t[i]? = some (v.setWidth s.cfg.charW).toNat) ∧ ∀ c ∈ t, c < 256

/-- R165 (a) to (e): the laws of the text commands, run one after the other with `IN <- OUT` between where the second reads bytes. -/
def Obligations.TextLaws : Prop :=
  ∀ s : State, Memory.wf s = true → s.cfg.wellFormed = true →
    (∃ t u, exec .b2a s = .next t ∧ exec .a2b t = .next u ∧ u.code = 0#8 ∧ u.outBuf = s.inBuf) ∧
    (∃ t u, exec .a2b s = .next t ∧ exec .b2a (t.setIn t.outBuf) = .next u ∧ u.code = 0#8 ∧
      u.txtBuf = s.txtBuf.map (· % 256) ∧ (u.txtBuf = s.txtBuf ↔ ∀ c ∈ s.txtBuf, c < 256)) ∧
    (∀ t, exec .hexEnc s = .next t → t.code = 0#8 →
      ∃ u, exec .hexDec t = .next u ∧ u.code = 0#8 ∧ (u.outBuf = s.inBuf ↔ ∀ v ∈ s.inBuf, 16 ≤ v.toNat) ∧
        ((∃ v ∈ s.inBuf, v.toNat < 16) →
          t.txtBuf.length < 2 * s.inBuf.length ∧ u.outBuf.length < s.inBuf.length)) ∧
    (∀ t, exec .hexDec s = .next t → t.code = 0#8 →
      ∃ u, exec .hexEnc (t.setIn t.outBuf) = .next u ∧ u.code = 0#8 ∧
        (u.txtBuf = s.txtBuf.map (fun c => if 0x61 ≤ c ∧ c ≤ 0x66 then c - 0x20 else c) ↔
          s.txtBuf.length % 2 = 0 ∧ ∀ v ∈ t.outBuf, 16 ≤ v.toNat)) ∧
    ∀ t, exec .hexEnc s = .next t → t.code = 0#8 → s.inBuf.length = 16 →
      ((∀ v ∈ s.inBuf, 16 ≤ v.toNat) → t.txtBuf.length = 32) ∧ ((∃ v ∈ s.inBuf, v.toNat < 16) → t.txtBuf.length < 32)

/-! ## The host software around the block -/

/-- 46_host_pipeline.md R189: `newLen` is the least multiple of 4 strictly greater than `c + 4`, so there are 1 to 4 padding bytes. -/
def Obligations.PaddedLengthIsTheNextMultiple : Prop :=
  ∀ c : Nat, paddedLength c % 4 = 0 ∧ c + 4 < paddedLength c ∧ (∀ m, m % 4 = 0 → c + 4 < m → paddedLength c ≤ m) ∧
    (outerPadding c).length = 4 - c % 4

/-- R192: the Android key routine replaces each word by the sign the ORIGINAL word at `i mod 3` has, whatever the order of the four steps;
the replacement flips the low 31 bits. -/
def Obligations.KeyWordAdjustmentReadsOriginalSigns : Prop :=
  (∀ x : Word, 0x7FFFFFFF#32 - x = x ^^^ 0x7FFFFFFF#32) ∧
  ∀ w : List Word, w.length = 4 →
    adjustKeyWords w = w.mapIdx fun i x => if (w.getD (i % 3) 0#32).msb then x ^^^ 0x7FFFFFFF#32 else x

/-- R186, R189, R115: the outer layer of the container comes back: what the host compresses, checksums, pads and encrypts under a key is
again what it compressed once decrypted under that key and inflated, checksum and padding ignored. -/
def Obligations.OuterLayerComesBack : Prop :=
  ∀ (cfg : Config) (buffer checksum key : List Byte), checksum.length = 4 → 16 ≤ key.length →
    ∃ cipher plain,
      encryptResult cfg (deflateFn cfg buffer ++ checksum ++ outerPadding (deflateFn cfg buffer).length) key = .ok cipher ∧
      decryptResult cfg cipher key = .ok plain ∧ inflateResult cfg.deflateWrap plain = .ok buffer

/-- 46_host_pipeline.md R183, R191, R196: the outer key depends on the cleaned identifier alone, so characters outside the hex digits
(dashes, spaces) change nothing; there is none exactly for the lengths R191 does not list; and the text of a key is 32 characters and is
itself an identifier of that key. (Its uppercase letters, and that the host derives a key without the block, are the MODEL's choices, log
entries 15 and 17.) -/
def Obligations.OuterKeyOfAnIdentifier : Prop :=
  ∀ (md5 : List Byte → Key) (suffix : List Nat),
    (∀ a b : List Nat, cleanIdentifier a = cleanIdentifier b → deriveOuterKey md5 suffix a = deriveOuterKey md5 suffix b) ∧
    (∀ a x b : List Nat, (∀ c ∈ x, hexValue c = none) →
      deriveOuterKey md5 suffix (a ++ x ++ b) = deriveOuterKey md5 suffix (a ++ b)) ∧
    (∀ id : List Nat, deriveOuterKey md5 suffix id = none ↔
      (cleanIdentifier id).length < 32 ∧ (cleanIdentifier id).length ≠ 14 ∧ (cleanIdentifier id).length ≠ 16 ∧
        ((cleanIdentifier id).length = 15 ∨ (cleanIdentifier id).length = 18 → allDigits (cleanIdentifier id) = false)) ∧
    ∀ k : Key, (keyText k).length = 32 ∧ deriveOuterKey md5 suffix (keyText k) = some k

/-- R196 scenario 1, R194, R197: with unbounded buffers, a document that is not empty comes back from `encode` and `decode` by the same
identifier, its characters reduced to low bytes and the encoder's padding after it, whatever else the two blocks hold, as long as the file's
lengths fit their 32-bit fields. (One word under `XXTEA_D1 = fault` apart, which the cipher does not take; the padding is log entry 6's, the
lengths log entry 12's, and that the block takes no part in the key's derivation is the MODEL's choice, log entry 17.) -/
def Obligations.DocumentComesBack : Prop :=
  ∀ (md5 : List Byte → Key) (suffix document deviceId : List Nat) (k : Key) (s t : State),
    deriveOuterKey md5 suffix deviceId = some k → s.cfg = t.cfg → s.cfg.bufMax = none →
    document ≠ [] → (∀ c ∈ document, c < 2 ^ s.cfg.charW) → document.length + 3 < 2 ^ 32 →
    s.cfg.xxteaD1 = .identity ∨ 4 < document.length →
    ∃ file u, codecEncode md5 suffix document deviceId s = .ok (file, u) ∧
      (file.length < 2 ^ 32 →
        ∃ v, codecDecode md5 suffix file deviceId t =
          .ok (document.map (· % 256) ++ bytesToAscii (documentPadding document.length), v))

/-- R185, R186, R191, R193, R196, R119: an identifier without a key is `UnrecognizedIdentifier`; a container of another format version or
payload length is `MalformedContainer`, under unbounded buffers; a decoded document that the collaborator rejects is `DocumentCorrupt`;
no operation decodes a container that is not sane; on a sane one `decryptOuterLayer` is one operation that replaces the object where the
decrypted payload inflates, and fails with `DecryptionFailure` where it is malformed and with a programming error where its bytes do not
fit. (The framing of a file whose sizes disagree is the MODEL's, log entry 7; that `decryptOuterLayer` and `decryptInnerLayer` start from
every state that has what they read, and that a re-run of the outer layer drops the document, is the MODEL's choice, log entry 13; that the
block takes no part in the key's derivation is too, log entry 17.) -/
def Obligations.HostFailuresAreNamed : Prop :=
  (∀ (md5 : List Byte → Key) (suffix document deviceId : List Nat) (file : List Byte) (s : State),
    deriveOuterKey md5 suffix deviceId = none →
    codecDecode md5 suffix file deviceId s = .error .unrecognizedIdentifier ∧
    codecEncode md5 suffix document deviceId s = .error .unrecognizedIdentifier) ∧
  (∀ (md5 : List Byte → Key) (suffix deviceId : List Nat) (k : Key) (c : Container) (s : State),
    deriveOuterKey md5 suffix deviceId = some k → s.cfg.bufMax = none →
    c.formatVersion ≠ 1#32 ∨ c.encryptedSize.toNat ≠ c.payload.length →
    codecDecode md5 suffix (containerFile c) deviceId s = .error .malformedContainer) ∧
  (∀ (valid : List Nat → Bool) (md5 : List Byte → Key) (suffix deviceId : List Nat) (file : List Byte) (s : State)
    (r : List Nat × State), codecDecode md5 suffix file deviceId s = .ok r →
    loadDocument valid md5 suffix file deviceId s = if valid r.1 then .ok r else .error .documentCorrupt) ∧
  (∀ (o : HostObject) (keys : KeyPair) (c : Container) (s : State),
    o.keys = some keys → o.stage.container = some c → sanityCheck c = false →
    decryptOuterLayer o s = .error .malformedContainer ∧
      ∀ b, o.stage.outerPlaintext = some b → decryptInnerLayer o s = .error .malformedContainer) ∧
  ∀ (o : HostObject) (keys : KeyPair) (c : Container) (s : State) (plain : List Byte),
    o.keys = some keys → o.stage.container = some c → sanityCheck c = true → s.cfg.fits c.payload.length = true → s.cfg.fits 16 = true →
    decryptResult s.cfg c.payload keys.outerKey.toList = .ok plain →
    (inflateWrapped s.cfg.deflateWrap plain = none → decryptOuterLayer o s = .error .decryptionFailure) ∧
    ∀ out left : List Byte, inflateWrapped s.cfg.deflateWrap plain = some (out, left) →
      (s.cfg.fits out.length = false → decryptOuterLayer o s = .error .programmingError) ∧
      (s.cfg.fits out.length = true →
        ∃ t, decryptOuterLayer o s = .ok ({ o with stage := .outerDecompressed c out }, t))
end

