-- ==== Sys2Proof/Laws/Bits.lean ====
section
/-! SUPPORT. The bit reader: what a read takes from the stream. -/

namespace Sys2Proof.Machine

/-- One bit read is one bit less to read, and the position inside a byte stays below 8 (R107). -/
theorem readBit_takes {r r1 : BitReader} {b : Bool} (hu : r.used < 8) (h : readBit r = some (b, r1)) :
    r1.used < 8 ∧ bitsLeft r1 + 1 = bitsLeft r := by
  unfold readBit at h
  cases hr : r.rest with
  | nil => simp [hr] at h
  | cons x xs =>
    simp only [hr, Option.some.injEq, Prod.mk.injEq] at h
    obtain ⟨-, rfl⟩ := h
    split
    · simp [bitsLeft, hr]; omega
    · simp [bitsLeft, hr]; omega

/-- `bits(n)` takes `n` bits and is below `2^n` (R107). -/
theorem readBits_takes : ∀ {n : Nat} {r r1 : BitReader} {v : Nat}, r.used < 8 → readBits n r = some (v, r1) →
    r1.used < 8 ∧ bitsLeft r1 + n = bitsLeft r ∧ v < 2 ^ n
  | 0, r, r1, v, hu, h => by
    simp only [readBits, Option.some.injEq, Prod.mk.injEq] at h
    obtain ⟨rfl, rfl⟩ := h
    exact ⟨hu, rfl, by simp⟩
  | n + 1, r, r1, v, hu, h => by
    simp only [readBits] at h
    cases h1 : readBit r with
    | none => simp [h1] at h
    | some p =>
      obtain ⟨b, q⟩ := p
      simp only [h1] at h
      obtain ⟨hq, hl⟩ := readBit_takes hu h1
      cases h2 : readBits n q with
      | none => simp [h2] at h
      | some p2 =>
        obtain ⟨w, q2⟩ := p2
        simp only [h2, Option.some.injEq, Prod.mk.injEq] at h
        obtain ⟨rfl, rfl⟩ := h
        obtain ⟨h3, h4, h5⟩ := readBits_takes hq h2
        refine ⟨h3, by omega, ?_⟩
        rw [Nat.pow_succ]
        cases b <;> simp <;> omega

/-- A symbol takes at least one bit (R110). -/
theorem decodeSymbol_takes : ∀ {levels : List CodeLevel} {c : Nat} {r r1 : BitReader} {sym : Nat}, r.used < 8 →
    decodeSymbol levels c r = some (sym, r1) → r1.used < 8 ∧ bitsLeft r1 < bitsLeft r
  | [], _, _, _, _, _, h => by simp [decodeSymbol] at h
  | lv :: levels, c, r, r1, sym, hu, h => by
    simp only [decodeSymbol] at h
    cases h1 : readBit r with
    | none => simp [h1] at h
    | some p =>
      obtain ⟨b, q⟩ := p
      obtain ⟨hq, hl⟩ := readBit_takes hu h1
      simp only [h1] at h
      split at h
      · split at h
        · simp only [Option.some.injEq, Prod.mk.injEq] at h
          obtain ⟨-, rfl⟩ := h
          exact ⟨hq, by omega⟩
        · obtain ⟨h3, h4⟩ := decodeSymbol_takes hq h
          exact ⟨h3, by omega⟩
      · obtain ⟨h3, h4⟩ := decodeSymbol_takes hq h
        exact ⟨h3, by omega⟩

/-- On a byte boundary `bits(8)` is the next byte (R107). -/
theorem readBits_byte (b : Byte) (bs : List Byte) : readBits 8 (readerAt (b :: bs)) = some (b.toNat, readerAt bs) := by
  have h : ∀ x : BitVec 8, x.toNat = (x.getLsbD 0).toNat + 2 * ((x.getLsbD 1).toNat + 2 * ((x.getLsbD 2).toNat +
      2 * ((x.getLsbD 3).toNat + 2 * ((x.getLsbD 4).toNat + 2 * ((x.getLsbD 5).toNat + 2 * ((x.getLsbD 6).toNat +
      2 * ((x.getLsbD 7).toNat + 2 * 0))))))) := by decide
  simp only [readBits, readBit, readerAt]
  simp [h b]

/-- On a byte boundary the reader is aligned already. -/
@[simp] theorem alignReader_readerAt (b : List Byte) : alignReader (readerAt b) = readerAt b := rfl

/-- On a byte boundary the next `n` bytes are read as they stand (R109). -/
theorem readBytes_aligned : ∀ xs tail : List Byte,
    readBytes xs.length (readerAt (xs ++ tail)) = some (xs, readerAt tail)
  | [], _ => rfl
  | x :: xs, tail => by
    simp [readBytes, readBits_byte, readBytes_aligned xs tail]

end Sys2Proof.Machine
end

