-- ==== Sys2Proof/Laws/Operands.lean ====
section
/-! SUPPORT. Lengths and shapes of the operand forms. -/

namespace Sys2Proof.Machine

@[simp] theorem bytesLe32_length (w : Word) : (bytesLe32 w).length = 4 := rfl

@[simp] theorem bytesBe32_length (w : Word) : (bytesBe32 w).length = 4 := rfl

@[simp] theorem bytesLe16_length (n : Nat) : (bytesLe16 n).length = 2 := rfl

@[simp] theorem wordsLe_cons4 (b0 b1 b2 b3 : Byte) (rest : List Byte) :
    wordsLe (b0 :: b1 :: b2 :: b3 :: rest) = le32 b0 b1 b2 b3 :: wordsLe rest := rfl

@[simp] theorem bytesLe_nil : bytesLe [] = [] := rfl

@[simp] theorem bytesLe_cons (w : Word) (ws : List Word) : bytesLe (w :: ws) = bytesLe32 w ++ bytesLe ws := rfl

@[simp] theorem reorderGroups_cons4 (b0 b1 b2 b3 : Byte) (rest : List Byte) :
    reorderGroups (b0 :: b1 :: b2 :: b3 :: rest) = b3 :: b2 :: b1 :: b0 :: reorderGroups rest := rfl

/-- Fewer than four bytes make no word. -/
theorem wordsLe_short : ∀ {b : List Byte}, b.length < 4 → wordsLe b = []
  | [], _ => rfl
  | [_], _ => rfl
  | [_, _], _ => rfl
  | [_, _, _], _ => rfl
  | _ :: _ :: _ :: _ :: _, h => by simp at h; omega

/-- `REORDER` keeps a tail of fewer than four bytes (R144). -/
theorem reorderGroups_short : ∀ {b : List Byte}, b.length < 4 → reorderGroups b = b
  | [], _ => rfl
  | [_], _ => rfl
  | [_, _], _ => rfl
  | [_, _, _], _ => rfl
  | _ :: _ :: _ :: _ :: _, h => by simp at h; omega

/-- `d = len div 4` (R70, R142). -/
theorem wordsLe_length : ∀ b : List Byte, (wordsLe b).length = b.length / 4
  | [] => rfl
  | [_] => by simp [wordsLe]
  | [_, _] => by simp [wordsLe]
  | [_, _, _] => by simp [wordsLe]
  | _ :: _ :: _ :: _ :: rest => by simp [wordsLe_length rest]; omega

/-- `len(OUT) = 4 * len(WRD)` (R143). -/
theorem bytesLe_length : ∀ ws : List Word, (bytesLe ws).length = 4 * ws.length
  | [] => rfl
  | w :: ws => by simp [bytesLe_length ws]; omega

/-- The value of a word from its four bytes (R9): no wrap occurs. -/
theorem le32_toNat (b0 b1 b2 b3 : Byte) :
    (le32 b0 b1 b2 b3).toNat = b0.toNat + 256 * b1.toNat + 65536 * b2.toNat + 16777216 * b3.toNat := by
  have h0 := b0.isLt; have h1 := b1.isLt; have h2 := b2.isLt; have h3 := b3.isLt
  simp only [le32, BitVec.toNat_ofNat]; omega

/-- `be32` is `le32` of the bytes in reverse (R106). -/
theorem be32_eq_le32 (b0 b1 b2 b3 : Byte) : be32 b0 b1 b2 b3 = le32 b3 b2 b1 b0 := by
  apply BitVec.eq_of_toNat_eq
  simp only [be32, le32, BitVec.toNat_ofNat]; omega

/-- Length of a write inside a buffer. -/
theorem memWrite_length {α : Type} {b v : List α} {i : Nat} (h : i + v.length ≤ b.length) :
    (memWrite b i v).length = b.length := by
  simp [memWrite]; omega

/-- Length of a read inside a buffer (R9). -/
theorem memRead_length {α : Type} {b : List α} {i n : Nat} (h : i + n ≤ b.length) : (memRead b i n).length = n := by
  simp [memRead]; omega

/-- `len(OUT) = len(IN)` (R144). -/
theorem reorderGroups_length : ∀ b : List Byte, (reorderGroups b).length = b.length
  | [] => rfl
  | [_] => rfl
  | [_, _] => rfl
  | [_, _, _] => rfl
  | _ :: _ :: _ :: _ :: rest => by simp [reorderGroups_length rest]

/-- The word of a word's bytes (R9). -/
theorem le32_bytes_of_word (w : Word) :
    le32 (w.extractLsb' 0 8) (w.extractLsb' 8 8) (w.extractLsb' 16 8) (w.extractLsb' 24 8) = w := by
  apply BitVec.eq_of_toNat_eq
  have := w.isLt
  simp [le32_toNat, BitVec.extractLsb'_toNat, Nat.shiftRight_eq_div_pow]; omega

/-- The bytes of a word made of four bytes (R9). -/
theorem bytesLe32_le32 (b0 b1 b2 b3 : Byte) : bytesLe32 (le32 b0 b1 b2 b3) = [b0, b1, b2, b3] := by
  have h0 := b0.isLt; have h1 := b1.isLt; have h2 := b2.isLt; have h3 := b3.isLt
  simp only [bytesLe32, List.cons.injEq, and_true]
  refine ⟨?_, ?_, ?_, ?_⟩ <;> apply BitVec.eq_of_toNat_eq <;>
    simp only [BitVec.extractLsb'_toNat, le32_toNat, Nat.shiftRight_eq_div_pow] <;> omega

end Sys2Proof.Machine
end

