-- ==== Sys2Proof/Laws/Cipher.lean ====
section
/-! SUPPORT. The cipher's rounds keep the length of the word array; what the cipher commands do around their rounds. -/

namespace Sys2Proof.Machine

variable (cfg : Config) (g : List Word)

@[simp] theorem encPosition_length (sum : Word) (s : List Word) (p : Nat) :
    (encPosition cfg g sum s p).length = s.length := by simp [encPosition]

@[simp] theorem decPosition_length (sum : Word) (s : List Word) (p : Nat) :
    (decPosition cfg g sum s p).length = s.length := by simp [decPosition]

/-- A fold of updates that keep the length keeps the length. -/
theorem foldl_length {f : List Word → Nat → List Word} (hf : ∀ s p, (f s p).length = s.length) :
    ∀ (ps : List Nat) (s : List Word), (ps.foldl f s).length = s.length
  | [], _ => rfl
  | p :: ps, s => by rw [List.foldl_cons, foldl_length hf ps, hf]

@[simp] theorem encSweep_length (sum : Word) (s : List Word) : (encSweep cfg g sum s).length = s.length :=
  foldl_length (encPosition_length cfg g sum) _ s

@[simp] theorem decSweep_length (sum : Word) (s : List Word) : (decSweep cfg g sum s).length = s.length :=
  foldl_length (decPosition_length cfg g sum) _ s

@[simp] theorem encRounds_length : ∀ (n : Nat) (sum : Word) (s : List Word), (encRounds cfg g n sum s).length = s.length
  | 0, _, _ => rfl
  | n + 1, sum, s => by rw [encRounds, encRounds_length n, encSweep_length]

@[simp] theorem decRounds_length : ∀ (n : Nat) (sum : Word) (s : List Word), (decRounds cfg g n sum s).length = s.length
  | 0, _, _ => rfl
  | n + 1, sum, s => by rw [decRounds, decRounds_length n, decSweep_length]

@[simp] theorem encryptWords_length (s : List Word) : (encryptWords cfg g s).length = s.length :=
  encRounds_length cfg g _ _ _

@[simp] theorem decryptWords_length (s : List Word) : (decryptWords cfg g s).length = s.length :=
  decRounds_length cfg g _ _ _

/-- Everything the cipher commands can yield, in the order of their checks (R73, R74, R75 to R78). -/
theorem cipherResult_cases (rounds : List Word → List Word → List Word) (data key : List Byte) :
    (data.length = 0 ∧ cipherResult rounds cfg data key = .ok []) ∨
    (0 < data.length ∧ key.length < 16 ∧ cipherResult rounds cfg data key = .error .keyTooShort) ∨
    (0 < data.length ∧ 16 ≤ key.length ∧ data.length < 4 ∧ cipherResult rounds cfg data key = .error .zeroWords) ∨
    (4 ≤ data.length ∧ data.length < 8 ∧ 16 ≤ key.length ∧ cfg.xxteaD1 = .identity ∧
      cipherResult rounds cfg data key = .ok (memRead data 0 4)) ∨
    (4 ≤ data.length ∧ data.length < 8 ∧ 16 ≤ key.length ∧ cfg.xxteaD1 = .fault ∧
      cipherResult rounds cfg data key = .error .zeroWords) ∨
    (8 ≤ data.length ∧ 16 ≤ key.length ∧
      cipherResult rounds cfg data key = .ok (bytesLe (rounds (keyWords key) (wordsLe data)))) := by
  by_cases h0 : data.length = 0
  · left; exact ⟨h0, by simp [cipherResult, h0]⟩
  by_cases hk : key.length < 16
  · right; left; exact ⟨by omega, hk, by simp [cipherResult, h0, hk]⟩
  by_cases h4 : data.length / 4 = 0
  · right; right; left; exact ⟨by omega, by omega, by omega, by rw [cipherResult, if_neg h0, if_neg hk, if_pos h4]⟩
  by_cases h8 : data.length / 4 = 1
  · cases hd : cfg.xxteaD1
    · right; right; right; left
      exact ⟨by omega, by omega, by omega, rfl, by rw [cipherResult, if_neg h0, if_neg hk, if_neg h4, if_pos h8, hd]⟩
    · right; right; right; right; left
      exact ⟨by omega, by omega, by omega, rfl, by rw [cipherResult, if_neg h0, if_neg hk, if_neg h4, if_pos h8, hd]⟩
  · right; right; right; right; right
    exact ⟨by omega, by omega, by rw [cipherResult, if_neg h0, if_neg hk, if_neg h4, if_neg h8]⟩

end Sys2Proof.Machine
end

