-- ==== Sys2Proof/Laws/Deflate.lean ====
section
/-! SUPPORT. What the configured compressor can do (43_deflate.md R101). -/

namespace Sys2Proof.Machine

variable {cfg : Config} {x y : List Byte}

/-- R101 (b) as a proposition. -/
theorem meetsR101_iff {w : DeflateWrap} : meetsR101 w x y = true ↔ inflateWrapped w y = some (x, []) := by
  simp [meetsR101]

/-- The output is the stored encoder's, or offered bytes that meet R101 (b). -/
theorem deflateFn_cases (cfg : Config) (x : List Byte) :
    deflateFn cfg x = storedEncoder cfg.deflateWrap x ∨
      ∃ y, offeredBytes cfg x = some y ∧ inflateWrapped cfg.deflateWrap y = some (x, []) ∧ deflateFn cfg x = y := by
  unfold deflateFn
  split
  · split
    · exact .inr ⟨_, ‹_›, meetsR101_iff.1 ‹_›, rfl⟩
    · exact .inl rfl
  · exact .inl rfl

/-- Offered bytes that meet R101 (b) are the output. -/
theorem deflateFn_of_offered (h : offeredBytes cfg x = some y) (hy : inflateWrapped cfg.deflateWrap y = some (x, [])) :
    deflateFn cfg x = y := by
  simp [deflateFn, h, meetsR101_iff.2 hy]

@[simp] theorem withDeflateFn_deflateWrap (fn : List Byte → List Byte) (xs : List (List Byte)) :
    (withDeflateFn cfg fn xs).deflateWrap = cfg.deflateWrap := rfl

@[simp] theorem withDeflateFn_bufMax (fn : List Byte → List Byte) (xs : List (List Byte)) :
    (withDeflateFn cfg fn xs).bufMax = cfg.bufMax := rfl

/-- A function given on `xs` is offered on `xs`. -/
theorem offeredBytes_withDeflateFn (fn : List Byte → List Byte) {xs : List (List Byte)} (h : x ∈ xs) :
    offeredBytes (withDeflateFn cfg fn xs) x = some (fn x) := by
  show (xs.map fun z => (z, fn z)).lookup x = some (fn x)
  induction xs with
  | nil => cases h
  | cons z zs ih =>
    by_cases hz : x = z
    · subst hz; simp
    · have hx : x ∈ zs := (List.mem_cons.1 h).resolve_left hz
      simp only [List.map_cons, List.lookup_cons, beq_eq_false_iff_ne.2 hz]
      exact ih hx

end Sys2Proof.Machine
end

