-- ==== Sys2Proof/Laws/State.lean ====
section
/-! SUPPORT. One lemma per field per update of State, each true by rfl, so that no proof unfolds a record update. -/

namespace Sys2Proof.Machine

variable (s : State)

section
variable (b : List Byte)
@[simp] theorem State.setIn_inBuf : (s.setIn b).inBuf = b := rfl
@[simp] theorem State.setIn_keyBuf : (s.setIn b).keyBuf = s.keyBuf := rfl
@[simp] theorem State.setIn_outBuf : (s.setIn b).outBuf = s.outBuf := rfl
@[simp] theorem State.setIn_wrdBuf : (s.setIn b).wrdBuf = s.wrdBuf := rfl
@[simp] theorem State.setIn_txtBuf : (s.setIn b).txtBuf = s.txtBuf := rfl
@[simp] theorem State.setIn_offset : (s.setIn b).offset = s.offset := rfl
@[simp] theorem State.setIn_value : (s.setIn b).value = s.value := rfl
@[simp] theorem State.setIn_cmd : (s.setIn b).cmd = s.cmd := rfl
@[simp] theorem State.setIn_code : (s.setIn b).code = s.code := rfl
@[simp] theorem State.setIn_valid : (s.setIn b).valid = s.valid := rfl
@[simp] theorem State.setIn_sticky : (s.setIn b).sticky = s.sticky := rfl
@[simp] theorem State.setIn_cfg : (s.setIn b).cfg = s.cfg := rfl
@[simp] theorem State.setIn_script : (s.setIn b).script = s.script := rfl
end

section
variable (b : List Byte)
@[simp] theorem State.setKey_inBuf : (s.setKey b).inBuf = s.inBuf := rfl
@[simp] theorem State.setKey_keyBuf : (s.setKey b).keyBuf = b := rfl
@[simp] theorem State.setKey_outBuf : (s.setKey b).outBuf = s.outBuf := rfl
@[simp] theorem State.setKey_wrdBuf : (s.setKey b).wrdBuf = s.wrdBuf := rfl
@[simp] theorem State.setKey_txtBuf : (s.setKey b).txtBuf = s.txtBuf := rfl
@[simp] theorem State.setKey_offset : (s.setKey b).offset = s.offset := rfl
@[simp] theorem State.setKey_value : (s.setKey b).value = s.value := rfl
@[simp] theorem State.setKey_cmd : (s.setKey b).cmd = s.cmd := rfl
@[simp] theorem State.setKey_code : (s.setKey b).code = s.code := rfl
@[simp] theorem State.setKey_valid : (s.setKey b).valid = s.valid := rfl
@[simp] theorem State.setKey_sticky : (s.setKey b).sticky = s.sticky := rfl
@[simp] theorem State.setKey_cfg : (s.setKey b).cfg = s.cfg := rfl
@[simp] theorem State.setKey_script : (s.setKey b).script = s.script := rfl
end

section
variable (b : List Byte)
@[simp] theorem State.setOut_inBuf : (s.setOut b).inBuf = s.inBuf := rfl
@[simp] theorem State.setOut_keyBuf : (s.setOut b).keyBuf = s.keyBuf := rfl
@[simp] theorem State.setOut_outBuf : (s.setOut b).outBuf = b := rfl
@[simp] theorem State.setOut_wrdBuf : (s.setOut b).wrdBuf = s.wrdBuf := rfl
@[simp] theorem State.setOut_txtBuf : (s.setOut b).txtBuf = s.txtBuf := rfl
@[simp] theorem State.setOut_offset : (s.setOut b).offset = s.offset := rfl
@[simp] theorem State.setOut_value : (s.setOut b).value = s.value := rfl
@[simp] theorem State.setOut_cmd : (s.setOut b).cmd = s.cmd := rfl
@[simp] theorem State.setOut_code : (s.setOut b).code = s.code := rfl
@[simp] theorem State.setOut_valid : (s.setOut b).valid = s.valid := rfl
@[simp] theorem State.setOut_sticky : (s.setOut b).sticky = s.sticky := rfl
@[simp] theorem State.setOut_cfg : (s.setOut b).cfg = s.cfg := rfl
@[simp] theorem State.setOut_script : (s.setOut b).script = s.script := rfl
end

section
variable (w : List Word)
@[simp] theorem State.setWrd_inBuf : (s.setWrd w).inBuf = s.inBuf := rfl
@[simp] theorem State.setWrd_keyBuf : (s.setWrd w).keyBuf = s.keyBuf := rfl
@[simp] theorem State.setWrd_outBuf : (s.setWrd w).outBuf = s.outBuf := rfl
@[simp] theorem State.setWrd_wrdBuf : (s.setWrd w).wrdBuf = w := rfl
@[simp] theorem State.setWrd_txtBuf : (s.setWrd w).txtBuf = s.txtBuf := rfl
@[simp] theorem State.setWrd_offset : (s.setWrd w).offset = s.offset := rfl
@[simp] theorem State.setWrd_value : (s.setWrd w).value = s.value := rfl
@[simp] theorem State.setWrd_cmd : (s.setWrd w).cmd = s.cmd := rfl
@[simp] theorem State.setWrd_code : (s.setWrd w).code = s.code := rfl
@[simp] theorem State.setWrd_valid : (s.setWrd w).valid = s.valid := rfl
@[simp] theorem State.setWrd_sticky : (s.setWrd w).sticky = s.sticky := rfl
@[simp] theorem State.setWrd_cfg : (s.setWrd w).cfg = s.cfg := rfl
@[simp] theorem State.setWrd_script : (s.setWrd w).script = s.script := rfl
end

section
variable (t : List Nat)
@[simp] theorem State.setTxt_inBuf : (s.setTxt t).inBuf = s.inBuf := rfl
@[simp] theorem State.setTxt_keyBuf : (s.setTxt t).keyBuf = s.keyBuf := rfl
@[simp] theorem State.setTxt_outBuf : (s.setTxt t).outBuf = s.outBuf := rfl
@[simp] theorem State.setTxt_wrdBuf : (s.setTxt t).wrdBuf = s.wrdBuf := rfl
@[simp] theorem State.setTxt_txtBuf : (s.setTxt t).txtBuf = t := rfl
@[simp] theorem State.setTxt_offset : (s.setTxt t).offset = s.offset := rfl
@[simp] theorem State.setTxt_value : (s.setTxt t).value = s.value := rfl
@[simp] theorem State.setTxt_cmd : (s.setTxt t).cmd = s.cmd := rfl
@[simp] theorem State.setTxt_code : (s.setTxt t).code = s.code := rfl
@[simp] theorem State.setTxt_valid : (s.setTxt t).valid = s.valid := rfl
@[simp] theorem State.setTxt_sticky : (s.setTxt t).sticky = s.sticky := rfl
@[simp] theorem State.setTxt_cfg : (s.setTxt t).cfg = s.cfg := rfl
@[simp] theorem State.setTxt_script : (s.setTxt t).script = s.script := rfl
end

section
variable (v : Word)
@[simp] theorem State.setOffset_inBuf : (s.setOffset v).inBuf = s.inBuf := rfl
@[simp] theorem State.setOffset_keyBuf : (s.setOffset v).keyBuf = s.keyBuf := rfl
@[simp] theorem State.setOffset_outBuf : (s.setOffset v).outBuf = s.outBuf := rfl
@[simp] theorem State.setOffset_wrdBuf : (s.setOffset v).wrdBuf = s.wrdBuf := rfl
@[simp] theorem State.setOffset_txtBuf : (s.setOffset v).txtBuf = s.txtBuf := rfl
@[simp] theorem State.setOffset_offset : (s.setOffset v).offset = v := rfl
@[simp] theorem State.setOffset_value : (s.setOffset v).value = s.value := rfl
@[simp] theorem State.setOffset_cmd : (s.setOffset v).cmd = s.cmd := rfl
@[simp] theorem State.setOffset_code : (s.setOffset v).code = s.code := rfl
@[simp] theorem State.setOffset_valid : (s.setOffset v).valid = s.valid := rfl
@[simp] theorem State.setOffset_sticky : (s.setOffset v).sticky = s.sticky := rfl
@[simp] theorem State.setOffset_cfg : (s.setOffset v).cfg = s.cfg := rfl
@[simp] theorem State.setOffset_script : (s.setOffset v).script = s.script := rfl
end

section
variable (v : Word)
@[simp] theorem State.setValue_inBuf : (s.setValue v).inBuf = s.inBuf := rfl
@[simp] theorem State.setValue_keyBuf : (s.setValue v).keyBuf = s.keyBuf := rfl
@[simp] theorem State.setValue_outBuf : (s.setValue v).outBuf = s.outBuf := rfl
@[simp] theorem State.setValue_wrdBuf : (s.setValue v).wrdBuf = s.wrdBuf := rfl
@[simp] theorem State.setValue_txtBuf : (s.setValue v).txtBuf = s.txtBuf := rfl
@[simp] theorem State.setValue_offset : (s.setValue v).offset = s.offset := rfl
@[simp] theorem State.setValue_value : (s.setValue v).value = v := rfl
@[simp] theorem State.setValue_cmd : (s.setValue v).cmd = s.cmd := rfl
@[simp] theorem State.setValue_code : (s.setValue v).code = s.code := rfl
@[simp] theorem State.setValue_valid : (s.setValue v).valid = s.valid := rfl
@[simp] theorem State.setValue_sticky : (s.setValue v).sticky = s.sticky := rfl
@[simp] theorem State.setValue_cfg : (s.setValue v).cfg = s.cfg := rfl
@[simp] theorem State.setValue_script : (s.setValue v).script = s.script := rfl
end

section
variable (c : Word)
@[simp] theorem State.setCmd_inBuf : (s.setCmd c).inBuf = s.inBuf := rfl
@[simp] theorem State.setCmd_keyBuf : (s.setCmd c).keyBuf = s.keyBuf := rfl
@[simp] theorem State.setCmd_outBuf : (s.setCmd c).outBuf = s.outBuf := rfl
@[simp] theorem State.setCmd_wrdBuf : (s.setCmd c).wrdBuf = s.wrdBuf := rfl
@[simp] theorem State.setCmd_txtBuf : (s.setCmd c).txtBuf = s.txtBuf := rfl
@[simp] theorem State.setCmd_offset : (s.setCmd c).offset = s.offset := rfl
@[simp] theorem State.setCmd_value : (s.setCmd c).value = s.value := rfl
@[simp] theorem State.setCmd_cmd : (s.setCmd c).cmd = c := rfl
@[simp] theorem State.setCmd_code : (s.setCmd c).code = s.code := rfl
@[simp] theorem State.setCmd_valid : (s.setCmd c).valid = s.valid := rfl
@[simp] theorem State.setCmd_sticky : (s.setCmd c).sticky = s.sticky := rfl
@[simp] theorem State.setCmd_cfg : (s.setCmd c).cfg = s.cfg := rfl
@[simp] theorem State.setCmd_script : (s.setCmd c).script = s.script := rfl
end

section
variable (as : List HostAction)
@[simp] theorem State.setScript_inBuf : (s.setScript as).inBuf = s.inBuf := rfl
@[simp] theorem State.setScript_keyBuf : (s.setScript as).keyBuf = s.keyBuf := rfl
@[simp] theorem State.setScript_outBuf : (s.setScript as).outBuf = s.outBuf := rfl
@[simp] theorem State.setScript_wrdBuf : (s.setScript as).wrdBuf = s.wrdBuf := rfl
@[simp] theorem State.setScript_txtBuf : (s.setScript as).txtBuf = s.txtBuf := rfl
@[simp] theorem State.setScript_offset : (s.setScript as).offset = s.offset := rfl
@[simp] theorem State.setScript_value : (s.setScript as).value = s.value := rfl
@[simp] theorem State.setScript_cmd : (s.setScript as).cmd = s.cmd := rfl
@[simp] theorem State.setScript_code : (s.setScript as).code = s.code := rfl
@[simp] theorem State.setScript_valid : (s.setScript as).valid = s.valid := rfl
@[simp] theorem State.setScript_sticky : (s.setScript as).sticky = s.sticky := rfl
@[simp] theorem State.setScript_cfg : (s.setScript as).cfg = s.cfg := rfl
@[simp] theorem State.setScript_script : (s.setScript as).script = as := rfl
end

section
variable (c : BitVec 8) (v k : Bool)
@[simp] theorem State.setStatus_inBuf : (s.setStatus c v k).inBuf = s.inBuf := rfl
@[simp] theorem State.setStatus_keyBuf : (s.setStatus c v k).keyBuf = s.keyBuf := rfl
@[simp] theorem State.setStatus_outBuf : (s.setStatus c v k).outBuf = s.outBuf := rfl
@[simp] theorem State.setStatus_wrdBuf : (s.setStatus c v k).wrdBuf = s.wrdBuf := rfl
@[simp] theorem State.setStatus_txtBuf : (s.setStatus c v k).txtBuf = s.txtBuf := rfl
@[simp] theorem State.setStatus_offset : (s.setStatus c v k).offset = s.offset := rfl
@[simp] theorem State.setStatus_value : (s.setStatus c v k).value = s.value := rfl
@[simp] theorem State.setStatus_cmd : (s.setStatus c v k).cmd = s.cmd := rfl
@[simp] theorem State.setStatus_code : (s.setStatus c v k).code = c := rfl
@[simp] theorem State.setStatus_valid : (s.setStatus c v k).valid = v := rfl
@[simp] theorem State.setStatus_sticky : (s.setStatus c v k).sticky = k := rfl
@[simp] theorem State.setStatus_cfg : (s.setStatus c v k).cfg = s.cfg := rfl
@[simp] theorem State.setStatus_script : (s.setStatus c v k).script = s.script := rfl
end

section
variable (cfg : Config)
@[simp] theorem State.resetWith_inBuf : (State.resetWith cfg).inBuf = [] := rfl
@[simp] theorem State.resetWith_keyBuf : (State.resetWith cfg).keyBuf = [] := rfl
@[simp] theorem State.resetWith_outBuf : (State.resetWith cfg).outBuf = [] := rfl
@[simp] theorem State.resetWith_wrdBuf : (State.resetWith cfg).wrdBuf = [] := rfl
@[simp] theorem State.resetWith_txtBuf : (State.resetWith cfg).txtBuf = [] := rfl
@[simp] theorem State.resetWith_offset : (State.resetWith cfg).offset = 0#32 := rfl
@[simp] theorem State.resetWith_value : (State.resetWith cfg).value = 0#32 := rfl
@[simp] theorem State.resetWith_cmd : (State.resetWith cfg).cmd = 0#32 := rfl
@[simp] theorem State.resetWith_code : (State.resetWith cfg).code = 0#8 := rfl
@[simp] theorem State.resetWith_valid : (State.resetWith cfg).valid = false := rfl
@[simp] theorem State.resetWith_sticky : (State.resetWith cfg).sticky = false := rfl
@[simp] theorem State.resetWith_cfg : (State.resetWith cfg).cfg = cfg := rfl
@[simp] theorem State.resetWith_script : (State.resetWith cfg).script = [] := rfl
end

end Sys2Proof.Machine
end

