-- ==== Sys2Proof/Laws/Ops.lean ====
section
/-! SUPPORT. The shared operations: one lemma per field for taking a fault, completing and resetting, and for each end of a
command one lemma that says everything it can answer. -/

namespace Sys2Proof.Machine

variable (s : State)

section
variable (c : Cause)
@[simp] theorem takeFault_inBuf : (takeFault c s).inBuf = s.inBuf := rfl
@[simp] theorem takeFault_keyBuf : (takeFault c s).keyBuf = s.keyBuf := rfl
@[simp] theorem takeFault_outBuf : (takeFault c s).outBuf = s.outBuf := rfl
@[simp] theorem takeFault_wrdBuf : (takeFault c s).wrdBuf = s.wrdBuf := rfl
@[simp] theorem takeFault_txtBuf : (takeFault c s).txtBuf = s.txtBuf := rfl
@[simp] theorem takeFault_offset : (takeFault c s).offset = s.offset := rfl
@[simp] theorem takeFault_value : (takeFault c s).value = s.value := rfl
@[simp] theorem takeFault_cmd : (takeFault c s).cmd = s.cmd := rfl
@[simp] theorem takeFault_code : (takeFault c s).code = causeCode c := rfl
@[simp] theorem takeFault_valid : (takeFault c s).valid = true := rfl
@[simp] theorem takeFault_sticky : (takeFault c s).sticky = true := rfl
@[simp] theorem takeFault_cfg : (takeFault c s).cfg = s.cfg := rfl
@[simp] theorem takeFault_script : (takeFault c s).script = s.script := rfl
end

@[simp] theorem complete_inBuf : (complete s).inBuf = s.inBuf := rfl
@[simp] theorem complete_keyBuf : (complete s).keyBuf = s.keyBuf := rfl
@[simp] theorem complete_outBuf : (complete s).outBuf = s.outBuf := rfl
@[simp] theorem complete_wrdBuf : (complete s).wrdBuf = s.wrdBuf := rfl
@[simp] theorem complete_txtBuf : (complete s).txtBuf = s.txtBuf := rfl
@[simp] theorem complete_offset : (complete s).offset = s.offset := rfl
@[simp] theorem complete_value : (complete s).value = s.value := rfl
@[simp] theorem complete_cmd : (complete s).cmd = s.cmd := rfl
@[simp] theorem complete_code : (complete s).code = 0#8 := rfl
@[simp] theorem complete_valid : (complete s).valid = true := rfl
@[simp] theorem complete_sticky : (complete s).sticky = s.sticky := rfl
@[simp] theorem complete_cfg : (complete s).cfg = s.cfg := rfl
@[simp] theorem complete_script : (complete s).script = s.script := rfl

@[simp] theorem resetItems_inBuf : (resetItems s).inBuf = [] := rfl
@[simp] theorem resetItems_keyBuf : (resetItems s).keyBuf = [] := rfl
@[simp] theorem resetItems_outBuf : (resetItems s).outBuf = [] := rfl
@[simp] theorem resetItems_wrdBuf : (resetItems s).wrdBuf = [] := rfl
@[simp] theorem resetItems_txtBuf : (resetItems s).txtBuf = [] := rfl
@[simp] theorem resetItems_offset : (resetItems s).offset = 0#32 := rfl
@[simp] theorem resetItems_value : (resetItems s).value = 0#32 := rfl
@[simp] theorem resetItems_cmd : (resetItems s).cmd = 0#32 := rfl
@[simp] theorem resetItems_code : (resetItems s).code = 0#8 := rfl
@[simp] theorem resetItems_valid : (resetItems s).valid = false := rfl
@[simp] theorem resetItems_sticky : (resetItems s).sticky = false := rfl
@[simp] theorem resetItems_cfg : (resetItems s).cfg = s.cfg := rfl
@[simp] theorem resetItems_script : (resetItems s).script = s.script := rfl

/-- A fault code is one of 1 to 7 (R210). -/
theorem causeCode_range (c : Cause) : 1 ≤ (causeCode c).toNat ∧ (causeCode c).toNat ≤ 7 := by
  cases c <;> decide

/-- Different causes have different codes (R210). -/
theorem causeCode_injective {c d : Cause} (h : causeCode c = causeCode d) : c = d := by
  revert h; cases c <;> cases d <;> decide

/-- A fault never shows the code of success. -/
theorem causeCode_ne_ok (c : Cause) : causeCode c ≠ 0#8 := by cases c <;> decide

/-- Everything `finishOut` can answer: the command's own fault, `Overflow`, or the completed command with its result. -/
theorem finishOut_next {r : Except Cause (List Byte)} {t : State} :
    finishOut r s = .next t ↔
      (∃ c, r = .error c ∧ t = takeFault c s) ∨
      (∃ v, r = .ok v ∧ s.cfg.fits v.length = false ∧ t = takeFault .overflow s) ∨
      (∃ v, r = .ok v ∧ s.cfg.fits v.length = true ∧ t = complete (s.setOut v)) := by
  cases r with
  | error c => simp [finishOut, eq_comm (b := t)]
  | ok v =>
    cases h : s.cfg.fits v.length <;> simp [finishOut, h, eq_comm (b := t)]

/-- `finishOut` always answers a next state. -/
theorem finishOut_answers (r : Except Cause (List Byte)) : ∃ t, finishOut r s = .next t := by
  cases r with
  | error c => exact ⟨_, rfl⟩
  | ok v => cases h : s.cfg.fits v.length <;> simp [finishOut, h]

/-- A result that fits completes the command. -/
theorem finishOut_ok {v : List Byte} (h : s.cfg.fits v.length = true) :
    finishOut (.ok v) s = .next (complete (s.setOut v)) := by simp [finishOut, h]

/-- Everything `finishWrd` can answer: the command's own fault, `Overflow`, or the completed command with its result. -/
theorem finishWrd_next {r : Except Cause (List Word)} {t : State} :
    finishWrd r s = .next t ↔
      (∃ c, r = .error c ∧ t = takeFault c s) ∨
      (∃ v, r = .ok v ∧ s.cfg.fits v.length = false ∧ t = takeFault .overflow s) ∨
      (∃ v, r = .ok v ∧ s.cfg.fits v.length = true ∧ t = complete (s.setWrd v)) := by
  cases r with
  | error c => simp [finishWrd, eq_comm (b := t)]
  | ok v =>
    cases h : s.cfg.fits v.length <;> simp [finishWrd, h, eq_comm (b := t)]

/-- `finishWrd` always answers a next state. -/
theorem finishWrd_answers (r : Except Cause (List Word)) : ∃ t, finishWrd r s = .next t := by
  cases r with
  | error c => exact ⟨_, rfl⟩
  | ok v => cases h : s.cfg.fits v.length <;> simp [finishWrd, h]

/-- A result that fits completes the command. -/
theorem finishWrd_ok {v : List Word} (h : s.cfg.fits v.length = true) :
    finishWrd (.ok v) s = .next (complete (s.setWrd v)) := by simp [finishWrd, h]

/-- Everything `finishTxt` can answer: the command's own fault, `Overflow`, or the completed command with its result. -/
theorem finishTxt_next {r : Except Cause (List Nat)} {t : State} :
    finishTxt r s = .next t ↔
      (∃ c, r = .error c ∧ t = takeFault c s) ∨
      (∃ v, r = .ok v ∧ s.cfg.fits v.length = false ∧ t = takeFault .overflow s) ∨
      (∃ v, r = .ok v ∧ s.cfg.fits v.length = true ∧ t = complete (s.setTxt v)) := by
  cases r with
  | error c => simp [finishTxt, eq_comm (b := t)]
  | ok v =>
    cases h : s.cfg.fits v.length <;> simp [finishTxt, h, eq_comm (b := t)]

/-- `finishTxt` always answers a next state. -/
theorem finishTxt_answers (r : Except Cause (List Nat)) : ∃ t, finishTxt r s = .next t := by
  cases r with
  | error c => exact ⟨_, rfl⟩
  | ok v => cases h : s.cfg.fits v.length <;> simp [finishTxt, h]

/-- A result that fits completes the command. -/
theorem finishTxt_ok {v : List Nat} (h : s.cfg.fits v.length = true) :
    finishTxt (.ok v) s = .next (complete (s.setTxt v)) := by simp [finishTxt, h]

/-- Everything `finishValue` can answer. -/
theorem finishValue_next {r : Except Cause Word} {t : State} :
    finishValue r s = .next t ↔
      (∃ c, r = .error c ∧ t = takeFault c s) ∨ (∃ v, r = .ok v ∧ t = complete (s.setValue v)) := by
  cases r <;> simp [finishValue, eq_comm (b := t)]

/-- `finishValue` always answers a next state. -/
theorem finishValue_answers (r : Except Cause Word) : ∃ t, finishValue r s = .next t := by
  cases r <;> exact ⟨_, rfl⟩

end Sys2Proof.Machine
end

