-- ==== Sys2Proof/Laws/Exec.lean ====
section
/-! SUPPORT. `exec` of each command as the shared end of a command on its result: the equation a proof cites instead of unfolding
`exec` and the meaning. -/

namespace Sys2Proof.Machine

variable (s : State)

theorem exec_xxteaEnc : exec .xxteaEnc s = finishOut (encryptResult s.cfg s.inBuf s.keyBuf) s := rfl

theorem exec_xxteaDec : exec .xxteaDec s = finishOut (decryptResult s.cfg s.inBuf s.keyBuf) s := rfl

theorem exec_crc32 : exec .crc32 s = finishOut (.ok (bytesBe32 (crcOf s.inBuf))) s := rfl

theorem exec_deflate : exec .deflate s = finishOut (.ok (deflateFn s.cfg s.inBuf)) s := rfl

theorem exec_inflate : exec .inflate s = finishOut (inflateResult s.cfg.deflateWrap s.inBuf) s := rfl

theorem exec_parseU32le : exec .parseU32le s = finishValue (parseResult s) s := rfl

theorem exec_writeU32le : exec .writeU32le s = finishOut (writeResult s) s := rfl

theorem exec_b2w : exec .b2w s = finishWrd (.ok (wordsLe s.inBuf)) s := rfl

theorem exec_w2b : exec .w2b s = finishOut (.ok (bytesLe s.wrdBuf)) s := rfl

theorem exec_reorder : exec .reorder s = finishOut (.ok (reorderGroups s.inBuf)) s := rfl

theorem exec_hexDec : exec .hexDec s = finishOut (hexDecResult s.txtBuf) s := rfl

theorem exec_hexEnc : exec .hexEnc s = finishTxt (.ok (hexEncode s.inBuf)) s := rfl

theorem exec_a2b : exec .a2b s = finishOut (.ok (asciiToBytes s.txtBuf)) s := rfl

theorem exec_b2a : exec .b2a s = finishTxt (.ok (bytesToAscii s.inBuf)) s := rfl

end Sys2Proof.Machine
end

