-- ==== Sys2Proof/Laws/HostPipeline.lean ====
section
/-! SUPPORT. What the host's operations can do: keys, running actions, one command and its name for a fault, the object after an
operation (46_host_pipeline.md R183, R186, R190, R193). -/

namespace Sys2Proof.Machine

/-- A key of sixteen bytes is those bytes. -/
theorem keyFrom_toList {b : List Byte} (h : b.length = 16) : (keyFrom b).toList = b := by
  apply List.ext_getElem
  · simp [h]
  · intro i h1 h2
    simp [keyFrom, h2]

/-- The key of a key's bytes. -/
@[simp] theorem keyFrom_of_key (k : Key) : keyFrom k.toList = k := by
  apply Vector.toList_inj.1
  exact keyFrom_toList (by simp)

@[simp] theorem runActions_nil (s : State) : runActions [] s = .next s := rfl

/-- Running actions one after the other (R12). -/
theorem runActions_append (as bs : List HostAction) (s : State) :
    runActions (as ++ bs) s =
      match runActions as s with
      | .next t => runActions bs t
      | .fault f => .fault f
      | .refused r => .refused r := by
  induction as generalizing s with
  | nil => rfl
  | cons a as ih =>
    simp only [List.cons_append, runActions]
    cases perform a s <;> simp [ih]

/-- A host command after writes that can be made: the state, or the host's name for the code (R193). -/
theorem hostCommand_next {writes : List HostAction} {i : Instr} {position : PipelinePosition} {s t : State}
    (h : runActions (writes ++ [.writeCmd (encode i)]) s = .next t) :
    hostCommand writes i position s = if t.code = okCode then .ok t else .error (hostErrorOf position t.code) := by
  simp only [hostCommand, h]

@[simp] theorem hostErrorOf_outer_malformed :
    hostErrorOf .outerStage (causeCode .malformedStream) = .decryptionFailure := rfl

@[simp] theorem hostErrorOf_elsewhere_malformed :
    hostErrorOf .elsewhere (causeCode .malformedStream) = .compressionFailure := rfl

@[simp] theorem hostErrorOf_framing_outOfRange :
    hostErrorOf .framing (causeCode .outOfRange) = .malformedContainer := rfl

/-- `Overflow` is a host programming error wherever it comes (R193). -/
@[simp] theorem hostErrorOf_overflow (position : PipelinePosition) :
    hostErrorOf position (causeCode .overflow) = .programmingError := by cases position <;> rfl

/-- A failure leaves the object in the prior state (R190). -/
@[simp] theorem replaceOrKeep_error (o : HostObject) (e : HostError) : replaceOrKeep o (.error e) = o := rfl

@[simp] theorem replaceOrKeep_ok (o : HostObject) (next : HostObject × State) : replaceOrKeep o (.ok next) = next.1 := rfl

/-- A decoding operation on a sane container goes on (R185). -/
@[simp] theorem onlyIfSane_of_sane {α : Type} {c : Container} (h : sanityCheck c = true) (r : Except HostError α) :
    onlyIfSane c r = r := by simp [onlyIfSane, h]

/-- On any other it is `MalformedContainer` (R185). -/
@[simp] theorem onlyIfSane_of_not_sane {α : Type} {c : Container} (h : sanityCheck c = false) (r : Except HostError α) :
    onlyIfSane c r = .error .malformedContainer := by simp [onlyIfSane, h]

/-- `decryptOuterLayer` from an object that has a key and a container (R186). -/
theorem decryptOuterLayer_eq {o : HostObject} {keys : KeyPair} {c : Container} (hk : o.keys = some keys)
    (hc : o.stage.container = some c) (s : State) :
    decryptOuterLayer o s = onlyIfSane c ((decryptPayload keys.outerKey c.payload s).bind fun p =>
      (inflatePayload p.1 p.2).bind fun r => .ok ({ o with stage := .outerDecompressed c r.1 }, r.2)) := by
  simp only [decryptOuterLayer, hk, hc]

/-- `decryptInnerLayer` from an object that has an outer plaintext (R187). -/
theorem decryptInnerLayer_eq {o : HostObject} {c : Container} {b : List Byte} (hc : o.stage.container = some c)
    (hb : o.stage.outerPlaintext = some b) (s : State) :
    decryptInnerLayer o s =
      onlyIfSane c ((decryptDocument b s).bind fun r => .ok ({ o with stage := .innerDecrypted c b r.1 }, r.2)) := by
  simp only [decryptInnerLayer, hc, hb]

/-- A state with an outer plaintext has a container (R190). -/
theorem Stage.container_of_outerPlaintext {stage : Stage} {b : List Byte} (h : stage.outerPlaintext = some b) :
    ∃ c, stage.container = some c := by
  cases stage <;> simp [Stage.outerPlaintext, Stage.container] at h ⊢

end Sys2Proof.Machine
end

