-- ==== Sys2Proof/Laws/HostPort.lean ====
section
/-! SUPPORT. What the step can do: a command, a host write that fits, or a host write that the block cannot take. -/

namespace Sys2Proof.Machine

/-- Everything a host replacement can answer. -/
theorem hostReplace_next {s t u : State} {n : Nat} :
    hostReplace s n t = .next u ↔ s.cfg.fits n = true ∧ u = t := by
  cases h : s.cfg.fits n <;> simp [hostReplace, h, eq_comm (b := u)]

/-- Everything a host replacement of `TXT` can answer. -/
theorem hostReplaceTxt_next {s u : State} {content : List Nat} :
    hostReplaceTxt s content = .next u ↔ s.cfg.isText content = true ∧ u = s.setTxt content := by
  unfold hostReplaceTxt Config.isText
  cases h : content.all s.cfg.isChar
  · simp
  · simp [hostReplace_next]

/-- With no pending action the step changes nothing; else it performs the first (R12, R241). -/
theorem step_nil {s : State} (h : s.script = []) : step s = .next s := by simp [step, stepScript, h]

theorem step_cons {s : State} {a : HostAction} {rest : List HostAction} (h : s.script = a :: rest) :
    step s = perform a (s.setScript rest) := by simp [step, stepScript, h]

end Sys2Proof.Machine
end

