-- ==== Sys2Proof/Laws/Memory.lean ====
section
/-! SUPPORT. The buffers stay well formed: every update of the block's storage keeps `Memory.wf` when what it stores fits, and the
reset state has it. -/

namespace Sys2Proof.Machine

/-- What `Memory.wf` says, buffer by buffer. -/
theorem Memory.wf_iff (s : State) :
    Memory.wf s = true ↔
      s.cfg.fits s.inBuf.length = true ∧ s.cfg.fits s.keyBuf.length = true ∧ s.cfg.fits s.outBuf.length = true ∧
        s.cfg.fits s.wrdBuf.length = true ∧ s.cfg.isText s.txtBuf = true := by
  simp [Memory.wf, and_assoc]

/-- What fits, fits when it is shorter (R25). -/
theorem Config.fits_mono {cfg : Config} {m n : Nat} (h : cfg.fits n = true) (hmn : m ≤ n) : cfg.fits m = true := by
  unfold Config.fits at *
  cases hb : cfg.bufMax with
  | none => simp
  | some k => simp [hb] at h ⊢; omega

/-- The empty content fits every capacity. -/
@[simp] theorem Config.fits_zero (cfg : Config) : cfg.fits 0 = true := by
  unfold Config.fits
  cases cfg.bufMax <;> simp

variable {s : State}

theorem Memory.wf_setIn {b : List Byte} (h : Memory.wf s = true) (hb : s.cfg.fits b.length = true) :
    Memory.wf (s.setIn b) = true := by
  rw [Memory.wf_iff] at *; simp [h, hb]

theorem Memory.wf_setKey {b : List Byte} (h : Memory.wf s = true) (hb : s.cfg.fits b.length = true) :
    Memory.wf (s.setKey b) = true := by
  rw [Memory.wf_iff] at *; simp [h, hb]

theorem Memory.wf_setOut {b : List Byte} (h : Memory.wf s = true) (hb : s.cfg.fits b.length = true) :
    Memory.wf (s.setOut b) = true := by
  rw [Memory.wf_iff] at *; simp [h, hb]

theorem Memory.wf_setWrd {w : List Word} (h : Memory.wf s = true) (hw : s.cfg.fits w.length = true) :
    Memory.wf (s.setWrd w) = true := by
  rw [Memory.wf_iff] at *; simp [h, hw]

theorem Memory.wf_setTxt {t : List Nat} (h : Memory.wf s = true) (ht : s.cfg.isText t = true) :
    Memory.wf (s.setTxt t) = true := by
  rw [Memory.wf_iff] at *; simp [h, ht]

theorem Memory.wf_setOffset {v : Word} (h : Memory.wf s = true) : Memory.wf (s.setOffset v) = true := h

theorem Memory.wf_setValue {v : Word} (h : Memory.wf s = true) : Memory.wf (s.setValue v) = true := h

theorem Memory.wf_setCmd {c : Word} (h : Memory.wf s = true) : Memory.wf (s.setCmd c) = true := h

theorem Memory.wf_setScript {as : List HostAction} (h : Memory.wf s = true) : Memory.wf (s.setScript as) = true := h

theorem Memory.wf_takeFault {c : Cause} (h : Memory.wf s = true) : Memory.wf (takeFault c s) = true := h

theorem Memory.wf_complete (h : Memory.wf s = true) : Memory.wf (complete s) = true := h

/-- After reset the buffers are well formed, under every configuration. -/
theorem Memory.wf_resetWith (cfg : Config) : Memory.wf (State.resetWith cfg) = true := by
  rw [Memory.wf_iff]; simp [Config.isText]

/-- A reset by the host leaves the buffers well formed. -/
theorem Memory.wf_resetItems (s : State) : Memory.wf (resetItems s) = true := Memory.wf_resetWith s.cfg

end Sys2Proof.Machine
end

