-- ==== Sys2Proof/Laws/PerInstr.lean ====
section
/-! SUPPORT. The family `EncodingShape`, one lemma per command: its word is format `C`, `RSV = 0` above its `OPCODE`, and the row
that the opcode map selects for it is its own (30_encoding.md R50, R52). -/

namespace Sys2Proof.Laws.EncodingShape

/-- The word of a command has `RSV = 0`, its opcode in the low byte, and selects the command's own row. -/
def Statement (i : Instr) : Prop :=
  reservedField (encode i) = 0#24 ∧ opcodeField (encode i) = opcodeOf i ∧
    (selectRow (encode i)).map OpcodeRow.instr = some i

theorem xxteaEnc : Statement .xxteaEnc := by unfold Statement; decide
theorem xxteaDec : Statement .xxteaDec := by unfold Statement; decide
theorem crc32 : Statement .crc32 := by unfold Statement; decide
theorem deflate : Statement .deflate := by unfold Statement; decide
theorem inflate : Statement .inflate := by unfold Statement; decide
theorem parseU32le : Statement .parseU32le := by unfold Statement; decide
theorem writeU32le : Statement .writeU32le := by unfold Statement; decide
theorem b2w : Statement .b2w := by unfold Statement; decide
theorem w2b : Statement .w2b := by unfold Statement; decide
theorem reorder : Statement .reorder := by unfold Statement; decide
theorem hexDec : Statement .hexDec := by unfold Statement; decide
theorem hexEnc : Statement .hexEnc := by unfold Statement; decide
theorem a2b : Statement .a2b := by unfold Statement; decide
theorem b2a : Statement .b2a := by unfold Statement; decide

end Sys2Proof.Laws.EncodingShape
end

