-- ==== Sys2Proof/Laws/Text.lean ====
section
/-! SUPPORT. What each text function can do: digits, lengths, the range of the result (45_hex_ascii.md R160 to R164). -/

namespace Sys2Proof.Machine

/-- The value of a digit is below 16 (R164). -/
theorem hexValue_lt {c v : Nat} (h : hexValue c = some v) : v < 16 := by
  unfold hexValue at h; split_ifs at h <;> simp at h <;> omega

/-- `hv` reads back what `hd` writes (R164). -/
theorem hexValue_hexDigit {n : Nat} (h : n < 16) : hexValue (hexDigit n) = some n := by
  interval_cases n <;> rfl

/-- `len(OUT) = len(TXT) div 2` (R160). -/
theorem hexDecode_length : ∀ {t : List Nat} {b : List Byte}, hexDecode t = some b → b.length = t.length / 2
  | [], b, h => by simp [hexDecode] at h; simp [← h]
  | [_], b, h => by simp [hexDecode] at h; simp [← h]
  | _ :: _ :: rest, b, h => by
    simp only [hexDecode] at h
    split at h
    · rename_i bytes _ _ h3
      cases h; simp [hexDecode_length h3]; omega
    · cases h

/-- The text of one byte is one or two characters, each a digit below 256 (R161). -/
theorem hexOfByte_char {v : Byte} {c : Nat} (h : c ∈ hexOfByte v) : c < 256 := by
  have all : ∀ v : Byte, ∀ c ∈ hexOfByte v, c < 256 := by decide +kernel
  exact all v c h

@[simp] theorem hexEncode_cons (v : Byte) (b : List Byte) : hexEncode (v :: b) = hexOfByte v ++ hexEncode b := rfl

/-- `len(OUT) = len(TXT)` (R162). -/
@[simp] theorem asciiToBytes_length (t : List Nat) : (asciiToBytes t).length = t.length := by simp [asciiToBytes]

/-- `len(TXT) = len(IN)` (R163). -/
@[simp] theorem bytesToAscii_length (b : List Byte) : (bytesToAscii b).length = b.length := by simp [bytesToAscii]

end Sys2Proof.Machine
end

