-- ==== Sys2Proof/Tests/Slice0.lean ====
section
/-! SUPPORT. Tests. Words are written from the opcode map (30_encoding.md R52); inputs and results of single commands from
95_test_vectors.md (the vector's name is in the docstring); then, for every statement with hypotheses, a witness that meets them
(`witness_<statement>`). -/

namespace Sys2Proof.Tests

open Sys2Proof.Machine

/-! ## Decoding -/

theorem test_decode_xxteaEnc : decode (0x000000#24 ++ 0b00000001#8) = .ok .xxteaEnc := by decide
theorem test_decode_xxteaDec : decode (0x000000#24 ++ 0b00000010#8) = .ok .xxteaDec := by decide
theorem test_decode_crc32 : decode (0x000000#24 ++ 0b00010000#8) = .ok .crc32 := by decide
theorem test_decode_deflate : decode (0x000000#24 ++ 0b00100000#8) = .ok .deflate := by decide
theorem test_decode_inflate : decode (0x000000#24 ++ 0b00100001#8) = .ok .inflate := by decide
theorem test_decode_parseU32le : decode (0x000000#24 ++ 0b00110000#8) = .ok .parseU32le := by decide
theorem test_decode_writeU32le : decode (0x000000#24 ++ 0b00110001#8) = .ok .writeU32le := by decide
theorem test_decode_b2w : decode (0x000000#24 ++ 0b00110010#8) = .ok .b2w := by decide
theorem test_decode_w2b : decode (0x000000#24 ++ 0b00110011#8) = .ok .w2b := by decide
theorem test_decode_reorder : decode (0x000000#24 ++ 0b00110100#8) = .ok .reorder := by decide
theorem test_decode_hexDec : decode (0x000000#24 ++ 0b01000000#8) = .ok .hexDec := by decide
theorem test_decode_hexEnc : decode (0x000000#24 ++ 0b01000001#8) = .ok .hexEnc := by decide
theorem test_decode_a2b : decode (0x000000#24 ++ 0b01000010#8) = .ok .a2b := by decide
theorem test_decode_b2a : decode (0x000000#24 ++ 0b01000011#8) = .ok .b2a := by decide

/-- V-E2. -/
theorem test_decode_zero : decode 0x00000000#32 = .error .unassignedOpcode := by decide
/-- V-E3: the reserved bits count, though the low byte is an opcode. -/
theorem test_decode_reserved_low : decode 0x00000110#32 = .error .reservedBitsSet := by decide
/-- V-E4. -/
theorem test_decode_unassigned : decode 0x00000003#32 = .error .unassignedOpcode ∧
    decode 0x00000035#32 = .error .unassignedOpcode ∧ decode 0x000000FF#32 = .error .unassignedOpcode := by decide
/-- V-E5. -/
theorem test_decode_reserved_high : decode 0x80000001#32 = .error .reservedBitsSet := by decide
/-- No two rows of the opcode map overlap (R52). -/
theorem test_rows_do_not_overlap : opcodeMap.Pairwise fun a b => a.pattern &&& b.mask ≠ b.pattern := by decide
theorem test_table_word : decodeTableWord 32 0x10 = some .crc32 ∧ decodeTableWord 32 0x110 = none := by decide

/-! ## Well-formedness: a term that each check refuses -/

/-- A small machine: buffers of two elements, characters of eight bits, one word a fault. -/
def smallConfig : Config :=
  { Config.default with bufMax := some 2, charW := 8, xxteaD1 := .fault }

theorem test_charW_7_refused : Config.wellFormed { Config.default with charW := 7 } = false := by decide
theorem test_charW_8_admitted : Config.wellFormed { Config.default with charW := 8 } = true := by decide
theorem test_three_do_not_fit_two : smallConfig.fits 3 = false ∧ smallConfig.fits 2 = true := by decide
theorem test_character_too_wide : smallConfig.isChar 256 = false ∧ smallConfig.isChar 255 = true := by decide
theorem test_text_refused : smallConfig.isText [0, 256] = false ∧ smallConfig.isText [0, 0, 0] = false := by decide
theorem test_writeIn_refused : HostAction.wellFormed smallConfig (.writeIn [0, 1, 2]) = false := by decide
theorem test_writeKey_refused : HostAction.wellFormed smallConfig (.writeKey [0, 1, 2]) = false := by decide
theorem test_writeWrd_refused : HostAction.wellFormed smallConfig (.writeWrd [0, 1, 2]) = false := by decide
theorem test_writeTxt_refused : HostAction.wellFormed smallConfig (.writeTxt [256]) = false := by decide
theorem test_copyOutToIn_refused : HostAction.wellFormed smallConfig (.copyOutToIn [0, 1, 2]) = false := by decide
theorem test_appendIn_refused : HostAction.wellFormed smallConfig (.appendIn [0, 1, 2]) = false := by decide
theorem test_commands_wellFormed : Instr.wellFormed .xxteaEnc = true ∧ Instr.wellFormed .b2a = true := by decide

/-! ## Single commands, on the vectors of the spec -/

/-- The inner key `Ki`. -/
def ki : List Byte := innerKey.toList

/-- The key `Kr = 00 01 .. 0F`. -/
def kr : List Byte := (List.range 16).map (BitVec.ofNat 8)

/-- Reset with `IN` and `KEY` replaced. -/
def withData (data key : List Byte) : State := (State.reset.setIn data).setKey key

/-- `STATUS` and one item after the one step that the word `w` makes. -/
def after {α : Type} (item : State → α) (w : Nat) (s : State) : Option (Word × α) :=
  match step (s.withFetchWord 32 w) with
  | .next t => some (statusWord t, item t)
  | .fault _ => none
  | .refused _ => none

/-- V-X9: positions 4 and 5 wrap the key index. -/
theorem test_xxteaEnc_wraps_key :
    after State.outBuf 0x01 (withData [0x78, 0x01, 0x01, 0x08, 0x00, 0xF7, 0xFF, 0xC0, 0x37, 0xE3, 0xD2, 0x35, 0x57, 0x74, 0x2B,
      0x13, 0xE1, 0x03, 0xD8, 0x58, 0x4C, 0x33, 0x83, 0x00] kr) =
      some (0x100, [0x56, 0x7A, 0x42, 0x07, 0x1B, 0xB6, 0x5D, 0x3F, 0x4E, 0xC5, 0x5B, 0x85, 0x81, 0xB3, 0x94, 0x65, 0xA5, 0x51,
        0xD3, 0xFF, 0x1A, 0x87, 0xB1, 0xAF]) := by decide +kernel
/-- V-X21. -/
theorem test_xxteaDec_zeros :
    after State.outBuf 0x02 (withData (List.replicate 8 0) ki) =
      some (0x100, [0x70, 0xFC, 0xAF, 0xEA, 0xA7, 0xA4, 0x82, 0x06]) := by decide +kernel
/-- V-X12: the other neighbour order and the arithmetic shift. -/
theorem test_xxtea_parameters :
    encryptResult { Config.default with xxteaYZ := .swapped, xxteaShr := .arithmetic }
      [0x48, 0x65, 0x6C, 0x6C, 0x6F, 0x20, 0x57, 0x6F, 0x72, 0x6C, 0x64, 0x21] ki =
      .ok [0x93, 0xAE, 0x63, 0x27, 0x07, 0x62, 0xDD, 0xDA, 0x66, 0xD2, 0x30, 0x31] := by decide +kernel
/-- V-X19: the key is tested before the word count. -/
theorem test_xxteaDec_key_first : after State.outBuf 0x02 (withData [1, 2, 3] [0x30, 0x2A, 0x75]) = some (0x303, []) := by
  decide +kernel
/-- V-C3. -/
theorem test_crc32_a : after State.outBuf 0x10 (withData [0x61] []) = some (0x100, [0xE8, 0xB7, 0xBE, 0x43]) := by decide +kernel
/-- V-C1. -/
theorem test_crc32_empty : after State.outBuf 0x10 State.reset = some (0x100, [0, 0, 0, 0]) := by decide +kernel
/-- V-D2. -/
theorem test_deflate_abc : after State.outBuf 0x20 (withData [0x61, 0x62, 0x63] []) =
    some (0x100, [0x78, 0x01, 0x01, 0x03, 0x00, 0xFC, 0xFF, 0x61, 0x62, 0x63, 0x02, 0x4D, 0x01, 0x27]) := by decide +kernel
/-- V-D1. -/
theorem test_deflate_empty : after State.outBuf 0x20 State.reset =
    some (0x100, [0x78, 0x01, 0x01, 0x00, 0x00, 0xFF, 0xFF, 0x00, 0x00, 0x00, 0x01]) := by decide +kernel
/-- The stream of V-I5, a dynamic block. -/
def dynamicStream : List Byte :=
  [0x78, 0xDA, 0x05, 0xC1, 0x01, 0x01, 0x00, 0x00, 0x00, 0x82, 0xA0, 0xAD, 0xA6, 0xFF, 0x37, 0x04, 0xD8, 0x84, 0xAD, 0xC5,
   0x40, 0x5C, 0x96, 0x3A, 0xEA, 0xBE, 0xA5, 0x0B, 0xEF]

/-- The output of V-I5: `acdbcaabbdbdabaacacbdcddcccbadd`. -/
def dynamicOutput : List Byte :=
  [0x61, 0x63, 0x64, 0x62, 0x63, 0x61, 0x61, 0x62, 0x62, 0x64, 0x62, 0x64, 0x61, 0x62, 0x61, 0x61, 0x63, 0x61, 0x63, 0x62,
   0x64, 0x63, 0x64, 0x64, 0x63, 0x63, 0x63, 0x62, 0x61, 0x64, 0x64]

/-- V-I4, a fixed block with an overlapping copy; V-I5. -/
theorem test_inflate_blocks :
    after State.outBuf 0x21 (withData [0x78, 0x9C, 0x4B, 0x4C, 0x84, 0x01, 0x00, 0x14, 0xE1, 0x03, 0xCB] []) =
      some (0x100, List.replicate 10 0x61) ∧
    after State.outBuf 0x21 (withData dynamicStream []) = some (0x100, dynamicOutput) := by decide +kernel
/-- V-M1, V-M3 to V-M11 (without V-M9): malformed streams of every kind. -/
theorem test_inflate_malformed : ([[], [0x79, 0x9C, 3, 0, 0, 0, 0, 1], [0x78, 0x9D, 3, 0, 0, 0, 0, 1],
    [0x78, 0xBB, 0, 0, 0, 0, 3, 0, 0, 0, 0, 1], [0x78, 0x9C, 7], [0x78, 1, 1, 3, 0, 0xFC, 0xFE, 0x61, 0x62, 0x63, 2, 0x4D, 1, 0x27],
    [0x78, 1, 1, 3, 0, 0xFC, 0xFF, 0x61, 0x62], [0x78, 0x9C, 0x4B, 0x4C, 0x4A, 6, 0, 2, 0x4D, 1, 0x28],
    [0x78, 0x9C, 3, 2, 0, 0, 0, 1]].all fun b => after State.outBuf 0x21 (withData b []) == some (0x305, [])) = true := by
  decide +kernel
/-- V-B2: an unaligned offset. -/
theorem test_parse_unaligned : after State.value 0x30 ((withData [8, 0, 0, 0, 0x17, 0, 0, 0] []).setOffset 1) =
    some (0x100, 0x17000000#32) := by decide +kernel
/-- V-B3b: no wrap. -/
theorem test_parse_no_wrap : after State.value 0x30 ((withData [8, 0, 0, 0, 0x17, 0, 0, 0] []).setOffset 0xFFFFFFFE) =
    some (0x302, 0#32) := by decide +kernel
/-- V-B4. -/
theorem test_write_unaligned :
    after State.outBuf 0x31 (((withData (List.replicate 8 0) []).setOffset 2).setValue 0x11223344) =
      some (0x100, [0, 0, 0x44, 0x33, 0x22, 0x11, 0, 0]) := by decide +kernel
/-- V-B4b: no append. -/
theorem test_write_no_append : after State.outBuf 0x31 ((withData (List.replicate 8 0) []).setOffset 8) = some (0x302, []) := by
  decide +kernel
/-- V-B6. -/
theorem test_b2w_key : after State.wrdBuf 0x32 (withData ki []) =
    some (0x100, [0x50752A30, 0x2FD7CB7A, 0x474E5089, 0xF01C9012]) := by decide +kernel
/-- V-B6b: a remainder is dropped. -/
theorem test_b2w_remainder : after State.wrdBuf 0x32 (withData [1, 2, 3, 4, 5] []) = some (0x100, [0x04030201]) := by decide +kernel
/-- V-B7. -/
theorem test_w2b_words : after State.outBuf 0x33 (State.reset.setWrd [0x04030201, 0xF01C9012]) =
    some (0x100, [1, 2, 3, 4, 0x12, 0x90, 0x1C, 0xF0]) := by decide +kernel
/-- V-B5. -/
theorem test_reorder_tail : after State.outBuf 0x34 (withData [0x26, 0x39, 0xF4, 0xCB, 1, 2, 3, 4, 5] []) =
    some (0x100, [0xCB, 0xF4, 0x39, 0x26, 4, 3, 2, 1, 5]) := by decide +kernel
/-- V-H2: "00g", the odd last character is not examined. -/
theorem test_hexDec_odd : after State.outBuf 0x40 (State.reset.setTxt [0x30, 0x30, 0x67]) = some (0x100, [0]) := by decide +kernel
/-- V-H2b: "0g". -/
theorem test_hexDec_bad : after State.outBuf 0x40 (State.reset.setTxt [0x30, 0x67]) = some (0x306, []) := by decide +kernel
/-- V-H3: "AFF0101". -/
theorem test_hexEnc_single_digits : after State.txtBuf 0x41 (withData [0x0A, 0xFF, 0x00, 0x10, 0x01] []) =
    some (0x100, [0x41, 0x46, 0x46, 0x30, 0x31, 0x30, 0x31]) := by decide +kernel
/-- V-H4b. -/
theorem test_a2b_low_byte : after State.outBuf 0x42 (State.reset.setTxt [0x20AC, 0x0141, 0x00E9]) =
    some (0x100, [0xAC, 0x41, 0xE9]) := by decide +kernel
/-- V-H5b. -/
theorem test_b2a_zero_extends : after State.txtBuf 0x43 (withData [0xE9, 0x00, 0xFF] []) = some (0x100, [0xE9, 0, 0xFF]) := by
  decide +kernel
/-- V-E3: `IllegalCommand`, `CMD` written all the same (R53). -/
theorem test_illegal_command : after State.cmd 0x110 State.reset = some (0x301, 0x110#32) := by decide +kernel

/-! ## Witnesses: for each statement with hypotheses, a state and operands that meet them -/

/-- The machine of `smallConfig` with one pending action. -/
def smallState (a : HostAction) : State := (State.resetWith smallConfig).setScript [a]

theorem witness_DecodeIsInverseOfEncode : decode 0x00000043#32 = .ok .b2a := by decide

theorem witness_OtherValuesAreIllegal : reservedField 0x00000100#32 ≠ 0#24 ∧ (∀ i, (0x00000100#32 : Word) ≠ encode i) ∧
    ∀ i, (0x00000000#32 : Word) ≠ encode i := by
  refine ⟨by decide, ?_, ?_⟩ <;> intro i <;> cases i <;> decide

theorem witness_StepRunsTheDecodedCommand :
    ((smallState (.writeCmd 0x34)).script = [.writeCmd 0x34] ∧ decode 0x34 = .ok .reorder) ∧
    (smallState (.writeCmd 0x35)).script = [.writeCmd 0x35] ∧ decode 0x35 = .error .unassignedOpcode := by decide

/-- Contents of exactly `BUF_MAX` elements, the widest character. -/
theorem witness_HostActionsWriteTheirTargets :
    (State.resetWith smallConfig).script = [] ∧
    (smallState (.writeIn [1, 2])).cfg.fits 2 = true ∧ (smallState (.writeKey [1, 2])).cfg.fits 2 = true ∧
    (smallState (.writeWrd [1, 2])).cfg.fits 2 = true ∧
    (∀ c ∈ [0, 255], c < 2 ^ (smallState (.writeTxt [0, 255])).cfg.charW) ∧
    (smallState (.copyOutToIn [1, 2])).cfg.fits ((smallState (.copyOutToIn [1, 2])).outBuf.length + 2) = true ∧
    (smallState (.appendIn [1, 2])).cfg.fits ((smallState (.appendIn [1, 2])).inBuf.length + 2) = true ∧
    (smallState .copyOutToKey).cfg.fits (smallState .copyOutToKey).outBuf.length = true ∧
    (smallState (.writeStatus 0x3FF)).script = [.writeStatus 0x3FF] ∧
    (smallState (.writeOffset 1)).script = [.writeOffset 1] ∧ (smallState (.writeValue 1)).script = [.writeValue 1] := by decide

theorem witness_ImpossibleHostWritesStop :
    (smallState (.writeIn [1, 2, 3])).script = [.writeIn [1, 2, 3]] ∧ smallConfig.fits 3 = false ∧
    (smallState (.writeKey [1, 2, 3])).script = [.writeKey [1, 2, 3]] ∧
    (smallState (.writeWrd [1, 2, 3])).script = [.writeWrd [1, 2, 3]] ∧
    (smallState (.writeTxt [256])).script = [.writeTxt [256]] ∧
    (∃ c ∈ [256], 2 ^ (smallState (.writeTxt [256])).cfg.charW ≤ c) ∧
    ((smallState (.writeTxt [255, 0, 0])).script = [.writeTxt [255, 0, 0]] ∧
      ∀ c ∈ [255, 0, 0], c < 2 ^ (smallState (.writeTxt [255, 0, 0])).cfg.charW) ∧
    ((smallState (.copyOutToIn [1, 2, 3])).script = [.copyOutToIn [1, 2, 3]] ∧
      smallConfig.fits ((smallState (.copyOutToIn [1, 2, 3])).outBuf.length + 3) = false) ∧
    (smallState (.appendIn [1, 2, 3])).script = [.appendIn [1, 2, 3]] ∧
    smallConfig.fits ((smallState (.appendIn [1, 2, 3])).inBuf.length + 3) = false := by decide

theorem witness_OnlyResetClearsStickyAndValid :
    (smallState .reset).script = [.reset] ∧
    (HostAction.writeStatus 0 ≠ .reset ∧
      step ((takeFault .overflow State.reset).setScript [.writeStatus 0]) = .next (takeFault .overflow State.reset) ∧
      (takeFault .overflow State.reset).sticky = true ∧ (takeFault .overflow State.reset).valid = true) :=
  ⟨rfl, by decide, rfl, rfl, rfl⟩

theorem witness_StatusDescribesTheLastCommand :
    issueCommand 0x34 State.reset = .next (complete (State.reset.setCmd 0x34)) ∧
    issueCommand 0x35 State.reset = .next (takeFault .illegalCommand (State.reset.setCmd 0x35)) := ⟨rfl, rfl⟩

/-- A script of two commands, the second of which faults. -/
theorem witness_StickyTellsWhetherAScriptRanClean :
    HostAction.reset ∉ [HostAction.writeCmd 0x34, .writeCmd 0] ∧
    runActions [.writeCmd 0x34, .writeCmd 0] State.reset =
      .next (takeFault .illegalCommand ((complete (State.reset.setCmd 0x34)).setCmd 0)) ∧
    [HostAction.writeCmd 0x34, .writeCmd 0] = [] ++ .writeCmd 0x34 :: [.writeCmd 0] ∧
    runActions ([] ++ [.writeCmd 0x34]) State.reset = .next (complete (State.reset.setCmd 0x34)) :=
  ⟨by decide, rfl, rfl, rfl⟩

theorem witness_StepKeepsTheInvariant :
    (State.reset.withFetchWord 32 0x34).Inv ∧ step (State.reset.withFetchWord 32 0x34) = .next (complete (State.reset.setCmd 0x34)) :=
  ⟨by unfold State.Inv; decide, rfl⟩

theorem witness_ResetMeetsTheInvariant : smallConfig.wellFormed = true := by decide

theorem witness_FaultChangesOnlyStatusAndCmd :
    issueCommand 0 State.reset = .next (takeFault .illegalCommand (State.reset.setCmd 0)) ∧
    (takeFault .illegalCommand (State.reset.setCmd 0)).code ≠ 0#8 := ⟨rfl, by decide⟩

theorem witness_SuccessChangesOnlyTheResult :
    issueCommand 0x32 (withData [1, 2, 3, 4] []) = .next (complete (((withData [1, 2, 3, 4] []).setCmd 0x32).setWrd [0x04030201])) ∧
    (complete (((withData [1, 2, 3, 4] []).setCmd 0x32).setWrd [0x04030201])).code = 0#8 ∧ resultItem .b2w ≠ .out ∧
    resultItem .b2w ≠ .txt ∧ resultItem .b2w ≠ .value ∧ resultItem .reorder ≠ .wrd := by
  refine ⟨rfl, ?_⟩; decide

/-- An operand fault, an `Overflow` (a three-character result, `BUF_MAX` two), and eight bytes under a key of sixteen. -/
theorem witness_FaultsOfEachCommand :
    (Memory.wf (State.resetWith smallConfig) = true ∧
      exec .inflate (State.resetWith smallConfig) = .next (takeFault .malformedStream (State.resetWith smallConfig))) ∧
    (Memory.wf ((State.resetWith smallConfig).setIn [0x10, 0x10]) = true ∧
      exec .hexEnc ((State.resetWith smallConfig).setIn [0x10, 0x10]) =
        .next (takeFault .overflow ((State.resetWith smallConfig).setIn [0x10, 0x10]))) ∧
    (Memory.wf (withData (List.replicate 8 0) ki) = true ∧ 8 ≤ (withData (List.replicate 8 0) ki).inBuf.length ∧
      16 ≤ (withData (List.replicate 8 0) ki).keyBuf.length ∧
      ∃ t, exec .xxteaEnc (withData (List.replicate 8 0) ki) = .next t) ∧
    Cause.zeroWords ∈ ownFaults .xxteaEnc ∧ mayOverflow .crc32 = true :=
  ⟨⟨by decide, rfl⟩, ⟨by decide, rfl⟩, ⟨by decide, by decide, by decide, _, rfl⟩, by decide, by decide⟩

theorem witness_RepeatedCommandIsIdempotent :
    exec .reorder (withData [1, 2, 3, 4] []) = .next (complete ((withData [1, 2, 3, 4] []).setOut [4, 3, 2, 1])) := rfl

/-- Two states with another `KEY`, `OUT` and history. -/
theorem witness_OutcomeDependsOnOperandsOnly :
    readsAgree .reorder (withData [1, 2, 3, 4] []) (takeFault .overflow ((withData [1, 2, 3, 4] ki).setOut [9])) ∧
    (withData [1, 2, 3, 4] []).cfg = (takeFault .overflow ((withData [1, 2, 3, 4] ki).setOut [9])).cfg ∧
    (∃ t, exec .reorder (withData [1, 2, 3, 4] []) = .next t ∧ t.code = 0#8) ∧
    ∃ t, exec .reorder (takeFault .overflow ((withData [1, 2, 3, 4] ki).setOut [9])) = .next t :=
  ⟨rfl, rfl, ⟨_, rfl, rfl⟩, _, rfl⟩

theorem witness_CipherOfEmptyInputIsEmpty : State.reset.inBuf = [] := rfl

/-- One byte and fifteen key bytes; a key of exactly sixteen with four more. -/
theorem witness_CipherChecksTheKeyLength :
    ((withData [1] (ki.take 15)).inBuf ≠ [] ∧ (withData [1] (ki.take 15)).keyBuf.length < 16) ∧
    16 ≤ (withData [1, 2, 3, 4] ki).keyBuf.length ∧
    exec .xxteaEnc (withData [1, 2, 3, 4] ki) = .next (complete ((withData [1, 2, 3, 4] ki).setOut [1, 2, 3, 4])) ∧
    exec .xxteaDec (withData [1, 2, 3, 4] ki) = .next (complete ((withData [1, 2, 3, 4] ki).setOut [1, 2, 3, 4])) :=
  ⟨by decide, by decide, rfl, rfl⟩

theorem witness_CipherOfNoWordFaults :
    (1 ≤ (withData [1] ki).inBuf.length ∧ (withData [1] ki).inBuf.length ≤ 3 ∧ 16 ≤ (withData [1] ki).keyBuf.length) ∧
    1 ≤ (withData [1, 2, 3] ki).inBuf.length ∧ (withData [1, 2, 3] ki).inBuf.length ≤ 3 := by decide

/-- Four bytes under `identity`, seven under `fault`. -/
theorem witness_CipherOfOneWord :
    (Memory.wf (withData [1, 2, 3, 4] ki) = true ∧ 4 ≤ (withData [1, 2, 3, 4] ki).inBuf.length ∧
      (withData [1, 2, 3, 4] ki).inBuf.length ≤ 7 ∧ 16 ≤ (withData [1, 2, 3, 4] ki).keyBuf.length ∧
      (withData [1, 2, 3, 4] ki).cfg.xxteaD1 = .identity) ∧
    Memory.wf { withData (List.replicate 7 1) ki with cfg := { Config.default with xxteaD1 := .fault } } = true ∧
    (withData (List.replicate 7 1) ki).inBuf.length = 7 := by decide

theorem witness_CipherTransformsTwoOrMoreWords :
    Memory.wf (withData (List.replicate 8 0) ki) = true ∧ 8 ≤ (withData (List.replicate 8 0) ki).inBuf.length ∧
    16 ≤ (withData (List.replicate 8 0) ki).keyBuf.length := by decide

/-- No byte, one word, and ten bytes of two words under `XXTEA_D1 = fault`. -/
theorem witness_CipherRoundTrip :
    (Memory.wf (withData [] ki) = true ∧ 16 ≤ (withData [] ki).keyBuf.length ∧ (withData [] ki).inBuf.length % 4 = 0 ∧
      (withData [] ki).inBuf.length / 4 ≠ 1) ∧
    (4 ≤ (withData [1, 2, 3, 4] ki).inBuf.length ∧ (withData [1, 2, 3, 4] ki).cfg.xxteaD1 = .identity) ∧
    (4 ≤ (withData (List.replicate 10 0) ki).inBuf.length ∧ (withData (List.replicate 10 0) ki).inBuf.length / 4 ≠ 1) := by decide

theorem witness_SweepMixesEachWordWithItsNeighbours : 2 ≤ [0#32, 0#32].length := by decide

theorem witness_NeighbourOrderIsStandardWhenSwapped :
    (List.replicate 8 (0#8 : Byte)).length / 4 = 2 ∧ (List.replicate 11 (0#8 : Byte)).length / 4 = 2 ∧
    (1 < [10#32, 20#32, 30#32].length ∧ [10#32, 20#32, 30#32][(1 + 1) % 3]? = some 30#32 ∧
      [10#32, 20#32, 30#32][(1 + 3 - 1) % 3]? = some 10#32) ∧
    ({ Config.default with xxteaYZ := .swapped } : Config).xxteaShr = .logical := by decide

/-- A capacity of exactly four, and of three. -/
theorem witness_Crc32WritesTheChecksum : ({ Config.default with bufMax := some 4 } : Config).fits 4 = true ∧
    ({ Config.default with bufMax := some 3 } : Config).fits 4 = false := by decide

theorem witness_ChecksumByteOrder : ∃ t, exec .crc32 State.reset = .next t ∧ t.code = 0#8 := ⟨_, rfl, rfl⟩

/-- A compressor that is not the stored encoder: zlib's bytes for no byte and for `61 62 63` (V-I2, V-I3). -/
def someCompressor (x : List Byte) : List Byte :=
  if x = [] then [0x78, 0x9C, 3, 0, 0, 0, 0, 1] else [0x78, 0x9C, 0x4B, 0x4C, 0x4A, 6, 0, 2, 0x4D, 1, 0x27]

/-- A given function on two inputs; then the eleven bytes of V-D1 without a bound, and in a capacity of two. -/
theorem witness_DeflateOutputInflatesToTheInput :
    (∀ x ∈ [[], [0x61, 0x62, 0x63]], inflateWrapped Config.default.deflateWrap (someCompressor x) = some (x, [])) ∧
    ({ withData [0x61, 0x62, 0x63] [] with cfg := withDeflateFn Config.default someCompressor [[], [0x61, 0x62, 0x63]] } : State).inBuf ∈
      [[], [0x61#8, 0x62, 0x63]] ∧
    State.reset.cfg.fits (deflateFn State.reset.cfg State.reset.inBuf).length = true ∧
    (State.resetWith smallConfig).cfg.fits (deflateFn (State.resetWith smallConfig).cfg (State.resetWith smallConfig).inBuf).length =
      false := by decide +kernel

theorem witness_CompressionRoundTrip :
    State.reset.cfg.fits State.reset.inBuf.length = true ∧
    State.reset.cfg.fits (deflateFn State.reset.cfg State.reset.inBuf).length = true := ⟨rfl, rfl⟩

/-- V-I2 with two bytes after the stream; a stream of one byte more than fits; V-M6. -/
theorem witness_InflateYieldsTheStreamOrFaults :
    (inflateWrapped .zlib [0x78, 0x9C, 3, 0, 0, 0, 0, 1, 0xDE, 0xAD] = some ([], [0xDE, 0xAD]) ∧ Config.default.fits 0 = true) ∧
    (inflateWrapped smallConfig.deflateWrap [0x78, 0x9C, 0x4B, 0x4C, 0x4A, 6, 0, 2, 0x4D, 1, 0x27] = some ([0x61, 0x62, 0x63], []) ∧
      smallConfig.fits 3 = false) ∧
    inflateWrapped .zlib [0x78, 0x9C, 7] = none := by decide +kernel

/-- An empty stream in every wrapper. -/
theorem witness_TrailingBytesAreIgnored :
    inflateWrapped .zlib [0x78, 0x9C, 3, 0, 0, 0, 0, 1] = some ([], []) ∧ inflateWrapped .raw [3, 0] = some ([], []) ∧
    inflateWrapped .gzip [0x1F, 0x8B, 8, 0, 0, 0, 0, 0, 0, 0xFF, 3, 0, 0, 0, 0, 0, 0, 0, 0, 0] = some ([], []) := by decide +kernel

theorem witness_AcceptedZlibStreamIsWrapped : inflateZlib [0x78, 0x9C, 3, 0, 0, 0, 0, 1, 7] = some ([], [7]) := by decide +kernel

/-- Nine bits of two bytes; the last bit of the second; one bit too many. -/
theorem witness_BitReaderFollowsTheBitNumbering :
    readBits 9 (readerAt [0x01, 0xFF]) = some (0x101, ⟨[0xFF], 1⟩) ∧
    readBits 16 (readerAt [0x01, 0xFF]) = some (0xFF01, ⟨[], 0⟩) ∧ readBits 17 (readerAt [0x01, 0xFF]) = none := by decide +kernel

/-- The longest admitted distance and a distance of one. -/
theorem witness_CopyRepeatsTheLastBytes :
    copyBack 2 3 [0x62, 0x61] = [0x61, 0x62, 0x61, 0x62, 0x61] ∧ 2 ≤ [0x62#8, 0x61#8].length ∧
    copyBack 1 2 [0x61] = [0x61, 0x61, 0x61] ∧ 1 ≤ [0x61#8].length := by decide

theorem witness_BitsLeftBoundEveryLoop : (readerAt [3, 0]).used < 8 ∧ (⟨[3, 0], 7⟩ : BitReader).used < 8 := by decide

/-- V-I5 after its two wrapper bytes and three block header bits: 257 literal/length lengths and two distance lengths. -/
theorem witness_AcceptedDynamicHeaderIsSound :
    ((readDynamicHeader ⟨dynamicStream.drop 2, 3⟩).map fun e => (e.1.lit.length, e.1.dist, e.1.lit.drop 97 |>.take 4)) =
      some (257, [1, 1], [2, 3, 2, 2]) := by decide +kernel

/-- The last offset in range and the first beyond it. -/
theorem witness_ParseReadsALittleEndianWord :
    ([8#8, 0, 0, 0, 0x17, 0, 0, 0][4]? = some 0x17 ∧ [8#8, 0, 0, 0, 0x17, 0, 0, 0][4 + 3]? = some 0) ∧
    ((withData [8, 0, 0, 0, 0x17, 0, 0, 0] []).setOffset 5).inBuf.length < 5 + 4 := by decide

theorem witness_WriteReplacesFourBytes :
    (Memory.wf ((withData (List.replicate 8 0) []).setOffset 4) = true ∧
      ((withData (List.replicate 8 0) []).setOffset 4).offset.toNat + 4 ≤ 8) ∧
    8 < ((withData (List.replicate 8 0) []).setOffset 5).offset.toNat + 4 := by decide

theorem witness_B2wGroupsBytesIntoWords :
    Memory.wf (withData [1, 2, 3, 4, 5] []) = true ∧ (withData [1, 2, 3, 4, 5] []).inBuf[4 * 0 + 3]? = some 4 := by decide

/-- Four bytes in a capacity of four, and in one of three. -/
theorem witness_W2bSpreadsWordsIntoBytes :
    ({ Config.default with bufMax := some 4 } : Config).fits (4 * [0x04030201#32].length) = true ∧
    ({ Config.default with bufMax := some 3 } : Config).fits (4 * [0x04030201#32].length) = false := by decide

theorem witness_ReorderReversesEveryGroup : Memory.wf (withData [1, 2, 3, 4, 5] []) = true := by decide

theorem witness_ByteOrderLaws :
    Memory.wf (withData [1, 2, 3, 4] []) = true ∧ 0 < (withData [1, 2, 3, 4] []).inBuf.length / 4 ∧ 4 * 0 < 2 ^ 32 ∧
    (withData [1, 2, 3, 4] []).offset.toNat + 4 ≤ (withData [1, 2, 3, 4] []).inBuf.length ∧
    (withData [1, 2, 3, 4] []).cfg.fits (4 * (withData [1, 2, 3, 4] []).wrdBuf.length) = true ∧
    (withData [1, 2, 3, 4] []).inBuf[4 * 0 + 3]? = some 4 := by decide

/-- "00g" and "0g". -/
theorem witness_HexDecodesPairsOfDigits :
    (Memory.wf (State.reset.setTxt [0x30, 0x30, 0x67]) = true ∧
      ∀ i, i < 2 * (3 / 2) → hexValue ([0x30, 0x30, 0x67].getD i 0) ≠ none) ∧
    ∃ i, i < 2 * (2 / 2) ∧ hexValue ([0x30, 0x67].getD i 0) = none := by
  refine ⟨by decide, 1, ?_⟩; decide

theorem witness_HexDigitsReadBack : 15 < 16 ∧ 9 ≤ 9 ∧ 10 ≤ 15 ∧ hexDigit 9 = 0x39 ∧ hexDigit 15 = 0x46 := by decide

/-- Three characters in a capacity of three, and in one of two. -/
theorem witness_HexEncodesWithoutLeadingZero :
    [0x10#8, 0x01].flatMap (fun v => if v.toNat < 16 then [hexDigit v.toNat]
      else [hexDigit (v.extractLsb' 4 4).toNat, hexDigit (v.extractLsb' 0 4).toNat]) = [0x31, 0x30, 0x31] ∧
    ({ Config.default with bufMax := some 3 } : Config).fits 3 = true ∧ smallConfig.fits 3 = false := by decide

theorem witness_A2bKeepsTheLowByte : Memory.wf (State.reset.setTxt [0xFFFF, 0]) = true := by decide

theorem witness_B2aZeroExtends :
    Memory.wf (withData [0xFF] []) = true ∧ (withData [0xFF] []).cfg.wellFormed = true := by decide

theorem witness_TextLaws :
    (Memory.wf (withData kr []) = true ∧ (withData kr []).cfg.wellFormed = true ∧ (withData kr []).inBuf.length = 16 ∧
      (∃ v ∈ (withData kr []).inBuf, v.toNat < 16) ∧ (∀ v ∈ ki, 16 ≤ v.toNat) ∧ ki.length = 16) ∧
    (∃ t, exec .hexEnc (withData kr []) = .next t ∧ t.code = 0#8) ∧
    exec .hexDec (State.reset.setTxt [0x61, 0x42]) = .next (complete ((State.reset.setTxt [0x61, 0x42]).setOut [0xAB])) :=
  ⟨by decide, ⟨_, rfl, rfl⟩, rfl⟩

theorem witness_PaddedLengthIsTheNextMultiple : 8 % 4 = 0 ∧ 3 + 4 < 8 ∧ paddedLength 3 = 8 ∧ paddedLength 4 = 12 := by decide

theorem witness_KeyWordAdjustmentReadsOriginalSigns : (wordsLe ki).length = 4 := by decide

theorem witness_OuterLayerComesBack : (bytesBe32 (crcOf [])).length = 4 ∧ 16 ≤ kr.length := by decide

/-- A digest for the witnesses: any sixteen bytes. -/
def someDigest (_ : List Byte) : Key := innerKey

/-- The identifier of `Kr` with a dash in it. -/
def krIdentifier : List Nat := keyText (keyFrom (kr.take 16)) ++ [0x2D]

theorem witness_OuterKeyOfAnIdentifier :
    cleanIdentifier [0x31, 0x2D] = cleanIdentifier [0x20, 0x31] ∧ (∀ c ∈ [0x2D, 0x20], hexValue c = none) ∧
    deriveOuterKey someDigest [] [0x31] = none ∧ deriveOuterKey someDigest [] krIdentifier = some (keyFrom kr) := by decide +kernel

/-- "<root/>" (program P3), and five characters under `XXTEA_D1 = fault`. -/
theorem witness_DocumentComesBack :
    deriveOuterKey someDigest [] krIdentifier = some (keyFrom kr) ∧ State.reset.cfg.bufMax = none ∧
    ([0x3C, 0x72, 0x6F, 0x6F, 0x74, 0x2F, 0x3E] ≠ ([] : List Nat) ∧
      (∀ c ∈ [0x3C, 0x72, 0x6F, 0x6F, 0x74, 0x2F, 0x3E], c < 2 ^ State.reset.cfg.charW) ∧
      State.reset.cfg.xxteaD1 = .identity ∧ 7 + 3 < 2 ^ 32) ∧
    (({ Config.default with xxteaD1 := .fault } : Config).bufMax = none ∧ 4 < [1, 2, 3, 4, 5].length) := by decide +kernel

/-- The file of P3 for the identifier of `Kr`, and back (R196 scenario 1 with P3's key). -/
theorem test_document_comes_back :
    ((codecEncode someDigest [] [0x3C, 0x72, 0x6F, 0x6F, 0x74, 0x2F, 0x3E] krIdentifier State.reset).bind fun r =>
      if r.1.take 20 = [8, 0, 0, 0, 0x17, 0, 0, 0, 0x18, 0, 0, 0, 0x56, 0x7A, 0x42, 0x07, 0x1B, 0xB6, 0x5D, 0x3F] ∧ r.1.length = 40 then
        (codecDecode someDigest [] r.1 krIdentifier State.reset).map Prod.fst
      else .error .programmingError) = .ok [0x3C, 0x72, 0x6F, 0x6F, 0x74, 0x2F, 0x3E, 0x20] := by decide +kernel

/-- An object before its outer layer, with a payload of `n` bytes `00`. -/
def checkedObject (n : Nat) : HostObject :=
  ⟨some ⟨innerKey⟩, .sanityChecked ⟨1, 1, BitVec.ofNat 32 n, List.replicate n 0, 1⟩⟩

/-- What saving the empty document leaves: its container has `decompressedSize` 0. -/
def savedEmptyObject : HostObject := ⟨some ⟨innerKey⟩, .innerDecrypted ⟨0, 15, 0, [], 1⟩ [] []⟩

/-- Twelve bytes that inflate to forty `61` (written by the zlib library). -/
def fortyStream : List Byte := [0x78, 0x9C, 0x4B, 0x4C, 0x24, 0x0E, 0x00, 0x00, 0x36, 0xEB, 0x0F, 0x29]

/-- A machine of capacity 16. -/
def sixteenConfig : Config := { Config.default with bufMax := some 16 }

/-- An identifier without a key; a wrong version and a wrong size; a container that is not sane; a payload that is no stream; a payload of twelve bytes whose forty
bytes do not fit sixteen, and fit without a bound. -/
theorem witness_HostFailuresAreNamed :
    deriveOuterKey someDigest [] [0x31] = none ∧
    ((⟨1, 1, 0, [], 2⟩ : Container).formatVersion ≠ 1#32 ∧ (⟨1, 1, 1, [], 1⟩ : Container).encryptedSize.toNat ≠ 0) ∧
    (savedEmptyObject.keys = some ⟨innerKey⟩ ∧ savedEmptyObject.stage.container = some ⟨0, 15, 0, [], 1⟩ ∧
      sanityCheck ⟨0, 15, 0, [], 1⟩ = false ∧ savedEmptyObject.stage.outerPlaintext = some []) ∧
    ((checkedObject 8).keys = some ⟨innerKey⟩ ∧ (checkedObject 8).stage.container = some ⟨1, 1, 8, List.replicate 8 0, 1⟩ ∧
      sanityCheck ⟨1, 1, 8, List.replicate 8 0, 1⟩ = true ∧
      sixteenConfig.fits 8 = true ∧ sixteenConfig.fits 16 = true ∧
      decryptResult sixteenConfig (List.replicate 8 0) innerKey.toList = .ok [0x70, 0xFC, 0xAF, 0xEA, 0xA7, 0xA4, 0x82, 0x06] ∧
      inflateWrapped .zlib [0x70, 0xFC, 0xAF, 0xEA, 0xA7, 0xA4, 0x82, 0x06] = none) ∧
    (∃ payload, encryptResult sixteenConfig fortyStream innerKey.toList = .ok payload ∧
      decryptResult sixteenConfig payload innerKey.toList = .ok fortyStream ∧ sixteenConfig.fits payload.length = true) ∧
    ((codecEncode someDigest [] [1, 2, 3, 4] krIdentifier State.reset).bind fun r =>
      codecDecode someDigest [] r.1 krIdentifier State.reset).toOption.isSome = true ∧
    inflateWrapped .zlib fortyStream = some (List.replicate 40 0x61, []) ∧
    sixteenConfig.fits 40 = false ∧ Config.default.fits 40 = true := by
  refine ⟨by decide +kernel, by decide +kernel, by decide +kernel, by decide +kernel, ?_, by decide +kernel, by decide +kernel, by decide +kernel,
    by decide +kernel⟩
  exact ⟨(encryptResult sixteenConfig fortyStream innerKey.toList).toOption.getD [], by decide +kernel⟩

end Sys2Proof.Tests
end

section
/-! SUPPORT. The invariant `State.Inv` layer by layer: the status of a command that ended, the updates of the state, the characters that
the text commands produce, the four ends of a command, every command, every host action, and the step (00_scope.md R6; 10_state.md R15,
R19, R25). -/

namespace Sys2Proof.Machine

section
variable {s t u : State}

/-! ## The status after a command -/

/-- Fault entry leaves a legal `STATUS` whatever stood there before: a code of R210, and `STICKY` with it (R214). -/
theorem statusLegal_takeFault (c : Cause) (s : State) : statusLegal (takeFault c s) = true := by
  simp [statusLegal, (causeCode_range c).2]

/-- Normal completion leaves a legal `STATUS` whatever stood there before (R215). -/
theorem statusLegal_complete (s : State) : statusLegal (complete s) = true := by
  simp [statusLegal]

/-! ## The updates of the state -/

/-- The part of the invariant that bounds `CHAR_W` from below (R6). -/
theorem State.Inv.admitted (h : s.Inv) : s.cfg.wellFormed = true := h.1

theorem State.Inv.takeFault (h : s.Inv) (c : Cause) : (takeFault c s).Inv := by
  obtain ⟨hcfg, hwf, -⟩ := h
  exact ⟨hcfg, Memory.wf_takeFault hwf, statusLegal_takeFault c s⟩

theorem State.Inv.complete (h : s.Inv) : (complete s).Inv := by
  obtain ⟨hcfg, hwf, -⟩ := h
  exact ⟨hcfg, Memory.wf_complete hwf, statusLegal_complete s⟩

theorem State.Inv.setIn {b : List Byte} (h : s.Inv) (hb : s.cfg.fits b.length = true) : (s.setIn b).Inv := by
  obtain ⟨hcfg, hwf, hst⟩ := h
  exact ⟨hcfg, Memory.wf_setIn hwf hb, hst⟩

theorem State.Inv.setKey {b : List Byte} (h : s.Inv) (hb : s.cfg.fits b.length = true) : (s.setKey b).Inv := by
  obtain ⟨hcfg, hwf, hst⟩ := h
  exact ⟨hcfg, Memory.wf_setKey hwf hb, hst⟩

theorem State.Inv.setOut {b : List Byte} (h : s.Inv) (hb : s.cfg.fits b.length = true) : (s.setOut b).Inv := by
  obtain ⟨hcfg, hwf, hst⟩ := h
  exact ⟨hcfg, Memory.wf_setOut hwf hb, hst⟩

theorem State.Inv.setWrd {w : List Word} (h : s.Inv) (hw : s.cfg.fits w.length = true) : (s.setWrd w).Inv := by
  obtain ⟨hcfg, hwf, hst⟩ := h
  exact ⟨hcfg, Memory.wf_setWrd hwf hw, hst⟩

theorem State.Inv.setTxt {x : List Nat} (h : s.Inv) (hx : s.cfg.isText x = true) : (s.setTxt x).Inv := by
  obtain ⟨hcfg, hwf, hst⟩ := h
  exact ⟨hcfg, Memory.wf_setTxt hwf hx, hst⟩

theorem State.Inv.setOffset (h : s.Inv) (v : Word) : (s.setOffset v).Inv := h

theorem State.Inv.setValue (h : s.Inv) (v : Word) : (s.setValue v).Inv := h

theorem State.Inv.setCmd (h : s.Inv) (c : Word) : (s.setCmd c).Inv := h

theorem State.Inv.setScript (h : s.Inv) (as : List HostAction) : (s.setScript as).Inv := h

/-- A reset needs of the state before it nothing but its configuration (R23, R240). -/
theorem State.Inv.resetItems (h : s.cfg.wellFormed = true) : (resetItems s).Inv :=
  ⟨h, Memory.wf_resetItems s, rfl⟩

/-! ## The characters of a text result -/

/-- A byte value is a character under every admitted `CHAR_W` (R6, R19). -/
theorem Config.isChar_of_lt_256 {cfg : Config} {c : Nat} (h : cfg.wellFormed = true) (hc : c < 256) :
    cfg.isChar c = true := by
  have hw : 8 ≤ cfg.charW := by simpa [Config.wellFormed] using h
  have hpow : 2 ^ 8 ≤ 2 ^ cfg.charW := Nat.pow_le_pow_right (by decide) hw
  simp only [Config.isChar, decide_eq_true_eq]
  omega

/-- Byte values that fit are a content of `TXT` (R19, R25). -/
theorem Config.isText_of_lt_256 {cfg : Config} {x : List Nat} (h : cfg.wellFormed = true) (hfit : cfg.fits x.length = true)
    (hx : ∀ c ∈ x, c < 256) : cfg.isText x = true := by
  simp only [Config.isText, hfit, Bool.true_and, List.all_eq_true]
  exact fun c hc => Config.isChar_of_lt_256 h (hx c hc)

/-- Every character that `HEX_ENC` writes is a byte value (R161). -/
theorem hexEncode_lt_256 (b : List Byte) : ∀ c ∈ hexEncode b, c < 256 := by
  intro c hc
  obtain ⟨v, -, hv⟩ := List.mem_flatMap.1 hc
  exact hexOfByte_char hv

/-- Every character that `B2A` writes is a byte value (R163). -/
theorem bytesToAscii_lt_256 (b : List Byte) : ∀ c ∈ bytesToAscii b, c < 256 := by
  intro c hc
  obtain ⟨v, -, rfl⟩ := List.mem_map.1 hc
  exact v.isLt

/-! ## The ends of a command -/

/-- The capacity test of R213 is what keeps `OUT` within `BUF_MAX`. -/
theorem finishOut_keeps_inv {r : Except Cause (List Byte)} (hs : s.Inv) (h : finishOut r s = .next t) : t.Inv := by
  obtain ⟨c, -, rfl⟩ | ⟨v, -, -, rfl⟩ | ⟨v, -, hfit, rfl⟩ := (finishOut_next s).1 h
  · exact hs.takeFault c
  · exact hs.takeFault .overflow
  · exact (hs.setOut hfit).complete

/-- The capacity test of R213 is what keeps `WRD` within `BUF_MAX`. -/
theorem finishWrd_keeps_inv {r : Except Cause (List Word)} (hs : s.Inv) (h : finishWrd r s = .next t) : t.Inv := by
  obtain ⟨c, -, rfl⟩ | ⟨v, -, -, rfl⟩ | ⟨v, -, hfit, rfl⟩ := (finishWrd_next s).1 h
  · exact hs.takeFault c
  · exact hs.takeFault .overflow
  · exact (hs.setWrd hfit).complete

/-- `finishTxt` tests the length only (R213), so that the result holds characters is the command's to know: byte values are enough. -/
theorem finishTxt_keeps_inv {x : List Nat} (hs : s.Inv) (hx : ∀ c ∈ x, c < 256) (h : finishTxt (.ok x) s = .next t) :
    t.Inv := by
  obtain ⟨c, -, rfl⟩ | ⟨v, -, -, rfl⟩ | ⟨v, hv, hfit, rfl⟩ := (finishTxt_next s).1 h
  · exact hs.takeFault c
  · exact hs.takeFault .overflow
  · obtain rfl : x = v := Except.ok.inj hv
    exact (hs.setTxt (Config.isText_of_lt_256 hs.admitted hfit hx)).complete

theorem finishValue_keeps_inv {r : Except Cause Word} (hs : s.Inv) (h : finishValue r s = .next t) : t.Inv := by
  obtain ⟨c, -, rfl⟩ | ⟨v, -, rfl⟩ := (finishValue_next s).1 h
  · exact hs.takeFault c
  · exact (hs.setValue v).complete

/-! ## The commands -/

/-- Every command keeps the invariant: by the end it shares with the others (R52, column "Writes"). -/
theorem exec_keeps_inv {i : Instr} (hs : s.Inv) (h : exec i s = .next t) : t.Inv := by
  cases i with
  | xxteaEnc => exact finishOut_keeps_inv hs (exec_xxteaEnc s ▸ h)
  | xxteaDec => exact finishOut_keeps_inv hs (exec_xxteaDec s ▸ h)
  | crc32 => exact finishOut_keeps_inv hs (exec_crc32 s ▸ h)
  | deflate => exact finishOut_keeps_inv hs (exec_deflate s ▸ h)
  | inflate => exact finishOut_keeps_inv hs (exec_inflate s ▸ h)
  | parseU32le => exact finishValue_keeps_inv hs (exec_parseU32le s ▸ h)
  | writeU32le => exact finishOut_keeps_inv hs (exec_writeU32le s ▸ h)
  | b2w => exact finishWrd_keeps_inv hs (exec_b2w s ▸ h)
  | w2b => exact finishOut_keeps_inv hs (exec_w2b s ▸ h)
  | reorder => exact finishOut_keeps_inv hs (exec_reorder s ▸ h)
  | hexDec => exact finishOut_keeps_inv hs (exec_hexDec s ▸ h)
  | hexEnc => exact finishTxt_keeps_inv hs (hexEncode_lt_256 s.inBuf) (exec_hexEnc s ▸ h)
  | a2b => exact finishOut_keeps_inv hs (exec_a2b s ▸ h)
  | b2a => exact finishTxt_keeps_inv hs (bytesToAscii_lt_256 s.inBuf) (exec_b2a s ▸ h)

/-- A value that selects a command runs it with the value in `CMD` (R51). -/
theorem issueCommand_of_decode_ok {c : Word} {i : Instr} (hc : decode c = .ok i) (s : State) :
    issueCommand c s = exec i (s.setCmd c) := by simp only [issueCommand, hc]

/-- A value that selects no command is `IllegalCommand` with the value in `CMD` (R53). -/
theorem issueCommand_of_decode_error {c : Word} {e : DecodeError} (hc : decode c = .error e) (s : State) :
    issueCommand c s = .next (takeFault .illegalCommand (s.setCmd c)) := by simp only [issueCommand, hc]

/-- A write to `CMD` keeps the invariant, whether its value selects a command or not (R51, R53). -/
theorem issueCommand_keeps_inv {c : Word} (hs : s.Inv) (h : issueCommand c s = .next t) : t.Inv := by
  cases hc : decode c with
  | ok i =>
    rw [issueCommand_of_decode_ok hc] at h
    exact exec_keeps_inv (hs.setCmd c) h
  | error e =>
    rw [issueCommand_of_decode_error hc] at h
    cases h
    exact (hs.setCmd c).takeFault .illegalCommand

/-! ## The host's actions -/

/-- A replacement that is answered by a next state fitted (R25), so what it stores may rely on that. -/
theorem hostReplace_keeps_inv {n : Nat} (hu : s.cfg.fits n = true → u.Inv) (h : hostReplace s n u = .next t) : t.Inv := by
  obtain ⟨hfit, rfl⟩ := hostReplace_next.1 h
  exact hu hfit

/-- Every host action that is answered by a next state keeps the invariant (R22, R57, R240). -/
theorem perform_keeps_inv {a : HostAction} (hs : s.Inv) (h : perform a s = .next t) : t.Inv := by
  cases a with
  | writeIn b => exact hostReplace_keeps_inv hs.setIn h
  | writeKey b => exact hostReplace_keeps_inv hs.setKey h
  | writeWrd w => exact hostReplace_keeps_inv hs.setWrd h
  | writeTxt x =>
    obtain ⟨hx, rfl⟩ := hostReplaceTxt_next.1 h
    exact hs.setTxt hx
  | writeOffset v => cases h; exact hs.setOffset v
  | writeValue v => cases h; exact hs.setValue v
  | writeCmd c => exact issueCommand_keeps_inv hs h
  | writeStatus v => cases h; exact hs
  | copyOutToIn tail => exact hostReplace_keeps_inv hs.setIn h
  | appendIn tail => exact hostReplace_keeps_inv hs.setIn h
  | copyOutToKey => exact hostReplace_keeps_inv hs.setKey h
  | reset => cases h; exact State.Inv.resetItems hs.admitted

end

/-! ## The step -/

/-- Settles O11, by cases on the host's pending actions: idle (R241), or the first of them performed (R12). -/
theorem stepKeepsTheInvariant : Obligations.StepKeepsTheInvariant := by
  unfold Obligations.StepKeepsTheInvariant
  intro s t hs h
  cases hscript : s.script with
  | nil =>
    rw [step_nil hscript] at h
    cases h; exact hs
  | cons a rest =>
    rw [step_cons hscript] at h
    exact perform_keeps_inv (hs.setScript rest) h

end Sys2Proof.Machine
end

section
/-! SUPPORT. The end of a command: what every command can leave behind, seen from one state (R214, R215) and from two that agree on its
operands (R20, R37), and from it what `STATUS` says afterwards (10_state.md R14, R15). -/

namespace Sys2Proof.Machine

section
variable {s t s₁ s₂ t₁ t₂ : State}

/-! ## What a command can leave behind -/

/-- `u` is `s` with at most the given item replaced. -/
def ResultItem.Written : ResultItem → State → State → Prop
  | .out, s, u => ∃ b, u = s.setOut b
  | .wrd, s, u => ∃ w, u = s.setWrd w
  | .txt, s, u => ∃ x, u = s.setTxt x
  | .value, s, u => ∃ v, u = s.setValue v

/-- `t` is what a command that writes `item` can leave of `s`: a fault taken and nothing else (R214), or its result and the
completion (R215). -/
def EndsWith (item : ResultItem) (s t : State) : Prop :=
  (∃ c, t = takeFault c s) ∨ ∃ u, item.Written s u ∧ t = complete u

/-- What the ends for `OUT`, `WRD` and `TXT` have in common: everything that such an end can answer, for the buffer that `put` replaces. -/
def BufferEnd {α : Type} (put : State → List α → State) (r : Except Cause (List α)) (s t : State) : Prop :=
  (∃ c, r = .error c ∧ t = takeFault c s) ∨
  (∃ v, r = .ok v ∧ s.cfg.fits v.length = false ∧ t = takeFault .overflow s) ∨
  (∃ v, r = .ok v ∧ s.cfg.fits v.length = true ∧ t = complete (put s v))

theorem bufferEnd_of_finishOut {r : Except Cause (List Byte)} (h : finishOut r s = .next t) : BufferEnd State.setOut r s t :=
  (finishOut_next s).1 h

theorem bufferEnd_of_finishWrd {r : Except Cause (List Word)} (h : finishWrd r s = .next t) : BufferEnd State.setWrd r s t :=
  (finishWrd_next s).1 h

theorem bufferEnd_of_finishTxt {r : Except Cause (List Nat)} (h : finishTxt r s = .next t) : BufferEnd State.setTxt r s t :=
  (finishTxt_next s).1 h

section
variable {α : Type} {put : State → List α → State} {r : Except Cause (List α)} {v : List α} {c : Cause} {item : ResultItem}

theorem bufferEnd_error : BufferEnd put (.error c) s t ↔ t = takeFault c s := by simp [BufferEnd]

theorem bufferEnd_of_fits (h : s.cfg.fits v.length = true) : BufferEnd put (.ok v) s t ↔ t = complete (put s v) := by
  simp [BufferEnd, h]

theorem bufferEnd_of_not_fits (h : s.cfg.fits v.length = false) : BufferEnd put (.ok v) s t ↔ t = takeFault .overflow s := by
  simp [BufferEnd, h]

theorem BufferEnd.endsWith (h : BufferEnd put r s t) (hput : ∀ v, item.Written s (put s v)) : EndsWith item s t := by
  obtain ⟨c, -, rfl⟩ | ⟨v, -, -, rfl⟩ | ⟨v, -, -, rfl⟩ := h
  · exact .inl ⟨c, rfl⟩
  · exact .inl ⟨.overflow, rfl⟩
  · exact .inr ⟨_, hput v, rfl⟩

end

theorem finishOut_endsWith {r : Except Cause (List Byte)} (h : finishOut r s = .next t) : EndsWith .out s t :=
  (bufferEnd_of_finishOut h).endsWith fun v => ⟨v, rfl⟩

theorem finishWrd_endsWith {r : Except Cause (List Word)} (h : finishWrd r s = .next t) : EndsWith .wrd s t :=
  (bufferEnd_of_finishWrd h).endsWith fun v => ⟨v, rfl⟩

theorem finishTxt_endsWith {r : Except Cause (List Nat)} (h : finishTxt r s = .next t) : EndsWith .txt s t :=
  (bufferEnd_of_finishTxt h).endsWith fun v => ⟨v, rfl⟩

theorem finishValue_endsWith {r : Except Cause Word} (h : finishValue r s = .next t) : EndsWith .value s t := by
  obtain ⟨c, -, rfl⟩ | ⟨v, -, rfl⟩ := (finishValue_next s).1 h
  · exact .inl ⟨c, rfl⟩
  · exact .inr ⟨_, ⟨v, rfl⟩, rfl⟩

/-- Everything a command can answer, by the end it shares with the others (R52, column "Writes"). -/
theorem exec_endsWith {i : Instr} (h : exec i s = .next t) : EndsWith (resultItem i) s t := by
  cases i with
  | xxteaEnc => exact finishOut_endsWith (exec_xxteaEnc s ▸ h)
  | xxteaDec => exact finishOut_endsWith (exec_xxteaDec s ▸ h)
  | crc32 => exact finishOut_endsWith (exec_crc32 s ▸ h)
  | deflate => exact finishOut_endsWith (exec_deflate s ▸ h)
  | inflate => exact finishOut_endsWith (exec_inflate s ▸ h)
  | parseU32le => exact finishValue_endsWith (exec_parseU32le s ▸ h)
  | writeU32le => exact finishOut_endsWith (exec_writeU32le s ▸ h)
  | b2w => exact finishWrd_endsWith (exec_b2w s ▸ h)
  | w2b => exact finishOut_endsWith (exec_w2b s ▸ h)
  | reorder => exact finishOut_endsWith (exec_reorder s ▸ h)
  | hexDec => exact finishOut_endsWith (exec_hexDec s ▸ h)
  | hexEnc => exact finishTxt_endsWith (exec_hexEnc s ▸ h)
  | a2b => exact finishOut_endsWith (exec_a2b s ▸ h)
  | b2a => exact finishTxt_endsWith (exec_b2a s ▸ h)

/-! ## The same command from two states -/

/-- What the host can tell apart of two ended commands: the codes agree, and after success the written item does. -/
def OutcomesAgree (item : ResultItem) (t₁ t₂ : State) : Prop :=
  t₁.code = t₂.code ∧ (t₁.code = 0#8 → itemAgrees item t₁ t₂)

/-- The same fault taken in both states; no success, so nothing is said of the item. -/
theorem outcomesAgree_takeFault (item : ResultItem) (c : Cause) (s₁ s₂ : State) :
    OutcomesAgree item (takeFault c s₁) (takeFault c s₂) :=
  ⟨rfl, fun hok => absurd hok (causeCode_ne_ok c)⟩

/-- One result for one buffer ends alike wherever the capacity is the same (R213). -/
theorem BufferEnd.outcomesAgree {α : Type} {put : State → List α → State} {r : Except Cause (List α)} {item : ResultItem}
    (h₁ : BufferEnd put r s₁ t₁) (hcfg : s₁.cfg = s₂.cfg) (h₂ : BufferEnd put r s₂ t₂)
    (hput : ∀ v, itemAgrees item (complete (put s₁ v)) (complete (put s₂ v))) : OutcomesAgree item t₁ t₂ := by
  obtain ⟨c, rfl, rfl⟩ | ⟨v, rfl, hbig, rfl⟩ | ⟨v, rfl, hfit, rfl⟩ := h₁
  · obtain rfl := bufferEnd_error.1 h₂
    exact outcomesAgree_takeFault item c s₁ s₂
  · obtain rfl := (bufferEnd_of_not_fits (hcfg ▸ hbig)).1 h₂
    exact outcomesAgree_takeFault item .overflow s₁ s₂
  · obtain rfl := (bufferEnd_of_fits (hcfg ▸ hfit)).1 h₂
    exact ⟨rfl, fun _ => hput v⟩

theorem finishOut_outcomesAgree {r : Except Cause (List Byte)} (hcfg : s₁.cfg = s₂.cfg)
    (h₁ : finishOut r s₁ = .next t₁) (h₂ : finishOut r s₂ = .next t₂) : OutcomesAgree .out t₁ t₂ :=
  (bufferEnd_of_finishOut h₁).outcomesAgree hcfg (bufferEnd_of_finishOut h₂) fun _ => rfl

theorem finishWrd_outcomesAgree {r : Except Cause (List Word)} (hcfg : s₁.cfg = s₂.cfg)
    (h₁ : finishWrd r s₁ = .next t₁) (h₂ : finishWrd r s₂ = .next t₂) : OutcomesAgree .wrd t₁ t₂ :=
  (bufferEnd_of_finishWrd h₁).outcomesAgree hcfg (bufferEnd_of_finishWrd h₂) fun _ => rfl

theorem finishTxt_outcomesAgree {r : Except Cause (List Nat)} (hcfg : s₁.cfg = s₂.cfg)
    (h₁ : finishTxt r s₁ = .next t₁) (h₂ : finishTxt r s₂ = .next t₂) : OutcomesAgree .txt t₁ t₂ :=
  (bufferEnd_of_finishTxt h₁).outcomesAgree hcfg (bufferEnd_of_finishTxt h₂) fun _ => rfl

/-- One result for `VALUE` ends alike everywhere: a register has no capacity. -/
theorem finishValue_outcomesAgree {r : Except Cause Word}
    (h₁ : finishValue r s₁ = .next t₁) (h₂ : finishValue r s₂ = .next t₂) : OutcomesAgree .value t₁ t₂ := by
  cases r with
  | error c => cases h₁; cases h₂; exact outcomesAgree_takeFault _ c s₁ s₂
  | ok v => cases h₁; cases h₂; exact ⟨rfl, fun _ => rfl⟩

/-- `PARSE_U32LE` computes from `IN` and `OFFSET` alone (R140). -/
theorem parseResult_congr (hin : s₁.inBuf = s₂.inBuf) (hoff : s₁.offset = s₂.offset) : parseResult s₁ = parseResult s₂ := by
  unfold parseResult offsetInRange
  rw [hin, hoff]

/-- `WRITE_U32LE` computes from `IN`, `OFFSET` and `VALUE` alone (R141). -/
theorem writeResult_congr (hin : s₁.inBuf = s₂.inBuf) (hoff : s₁.offset = s₂.offset) (hval : s₁.value = s₂.value) :
    writeResult s₁ = writeResult s₂ := by
  unfold writeResult offsetInRange
  rw [hin, hoff, hval]

/-! ## `STATUS` after a command -/

/-- `t` describes the command that ended in it, begun in `s` with its value already in `CMD` (R14, R15). -/
structure DescribesCommand (s t : State) : Prop where
  cmd : t.cmd = s.cmd
  valid : t.valid = true
  code : t.code.toNat ≤ 7
  sticky : t.sticky = (s.sticky || decide (t.code ≠ 0#8))

theorem describesCommand_takeFault (c : Cause) (s : State) : DescribesCommand s (takeFault c s) where
  cmd := rfl
  valid := rfl
  code := (causeCode_range c).2
  sticky := by simp [causeCode_ne_ok c]

theorem describesCommand_complete {u : State} (hcmd : u.cmd = s.cmd) (hsticky : u.sticky = s.sticky) :
    DescribesCommand s (complete u) where
  cmd := hcmd
  valid := rfl
  code := by simp
  sticky := by simp [hsticky]

/-- A result is no item that `STATUS` speaks of. -/
theorem ResultItem.Written.cmd_sticky {item : ResultItem} {u : State} (hu : item.Written s u) :
    u.cmd = s.cmd ∧ u.sticky = s.sticky := by
  cases item <;> obtain ⟨_, rfl⟩ := hu <;> exact ⟨rfl, rfl⟩

theorem exec_describesCommand {i : Instr} (h : exec i s = .next t) : DescribesCommand s t := by
  obtain ⟨c, rfl⟩ | ⟨u, hu, rfl⟩ := exec_endsWith h
  · exact describesCommand_takeFault c s
  · obtain ⟨hcmd, hsticky⟩ := hu.cmd_sticky
    exact describesCommand_complete hcmd hsticky

/-- A write to `CMD` is described with its value in the register, a value that selects no command included (R51, R53). -/
theorem issueCommand_describesCommand {c : Word} (h : issueCommand c s = .next t) : DescribesCommand (s.setCmd c) t := by
  cases hc : decode c with
  | ok i => exact exec_describesCommand (issueCommand_of_decode_ok hc s ▸ h)
  | error e =>
    rw [issueCommand_of_decode_error hc] at h
    cases h
    exact describesCommand_takeFault .illegalCommand (s.setCmd c)

/-! ## The bits of `STATUS` -/

/-- Every bit of the register by the field it belongs to (R15). -/
theorem statusWord_getLsbD (s : State) (k : Nat) :
    (statusWord s).getLsbD k =
      if k < 8 then s.code.getLsbD k else if k = 8 then s.valid else if k = 9 then s.sticky else false := by
  change (0#22 ++ BitVec.ofBool s.sticky ++ BitVec.ofBool s.valid ++ s.code : BitVec (22 + 1 + 1 + 8)).getLsbD k = _
  simp only [BitVec.getLsbD_append, BitVec.getLsbD_ofBool, BitVec.getLsbD_zero]
  by_cases h8 : k < 8
  · simp only [h8, if_true]
  · by_cases hv : k = 8
    · subst hv; simp
    · by_cases hs : k = 9
      · subst hs; simp
      · have hv' : ¬ k - 8 < 1 := by omega
        have hs' : ¬ k - 8 - 1 < 1 := by omega
        simp only [h8, hv, hs, hv', hs', if_false]

theorem statusWord_code (s : State) : (statusWord s).extractLsb' 0 8 = s.code := by
  ext k hk
  simp [statusWord_getLsbD, hk]

theorem statusWord_valid (s : State) : (statusWord s).getLsbD 8 = s.valid := by
  rw [statusWord_getLsbD]; rfl

theorem statusWord_sticky (s : State) : (statusWord s).getLsbD 9 = s.sticky := by
  rw [statusWord_getLsbD]; rfl

/-- Bits 31:10 are zero (R15). -/
theorem statusWord_reserved (s : State) : (statusWord s).extractLsb' 10 22 = 0#22 := by
  ext k hk
  have h8 : ¬ 10 + k < 8 := by omega
  have h8' : 10 + k ≠ 8 := by omega
  have h9 : 10 + k ≠ 9 := by omega
  simp [statusWord_getLsbD, h8, h8', h9]

end

/-! ## The statements -/

/-- Settles O18: by cases on the command, each of which is one end on a result of its operands (R52, column "Reads"). -/
theorem outcomeDependsOnOperandsOnly : Obligations.OutcomeDependsOnOperandsOnly := by
  unfold Obligations.OutcomeDependsOnOperandsOnly
  intro i s₁ s₂ t₁ t₂ hreads hcfg h₁ h₂
  change OutcomesAgree (resultItem i) t₁ t₂
  cases i with
  | xxteaEnc =>
    obtain ⟨hin, hkey⟩ := hreads
    rw [exec_xxteaEnc, hcfg, hin, hkey] at h₁
    exact finishOut_outcomesAgree hcfg h₁ h₂
  | xxteaDec =>
    obtain ⟨hin, hkey⟩ := hreads
    rw [exec_xxteaDec, hcfg, hin, hkey] at h₁
    exact finishOut_outcomesAgree hcfg h₁ h₂
  | crc32 =>
    have hin : s₁.inBuf = s₂.inBuf := hreads
    rw [exec_crc32, hin] at h₁
    exact finishOut_outcomesAgree hcfg h₁ h₂
  | deflate =>
    have hin : s₁.inBuf = s₂.inBuf := hreads
    rw [exec_deflate, hcfg, hin] at h₁
    exact finishOut_outcomesAgree hcfg h₁ h₂
  | inflate =>
    have hin : s₁.inBuf = s₂.inBuf := hreads
    rw [exec_inflate, hcfg, hin] at h₁
    exact finishOut_outcomesAgree hcfg h₁ h₂
  | parseU32le =>
    obtain ⟨hin, hoff⟩ := hreads
    rw [exec_parseU32le, parseResult_congr hin hoff] at h₁
    exact finishValue_outcomesAgree h₁ h₂
  | writeU32le =>
    obtain ⟨hin, hoff, hval⟩ := hreads
    rw [exec_writeU32le, writeResult_congr hin hoff hval] at h₁
    exact finishOut_outcomesAgree hcfg h₁ h₂
  | b2w =>
    have hin : s₁.inBuf = s₂.inBuf := hreads
    rw [exec_b2w, hin] at h₁
    exact finishWrd_outcomesAgree hcfg h₁ h₂
  | w2b =>
    have hwrd : s₁.wrdBuf = s₂.wrdBuf := hreads
    rw [exec_w2b, hwrd] at h₁
    exact finishOut_outcomesAgree hcfg h₁ h₂
  | reorder =>
    have hin : s₁.inBuf = s₂.inBuf := hreads
    rw [exec_reorder, hin] at h₁
    exact finishOut_outcomesAgree hcfg h₁ h₂
  | hexDec =>
    have htxt : s₁.txtBuf = s₂.txtBuf := hreads
    rw [exec_hexDec, htxt] at h₁
    exact finishOut_outcomesAgree hcfg h₁ h₂
  | hexEnc =>
    have hin : s₁.inBuf = s₂.inBuf := hreads
    rw [exec_hexEnc, hin] at h₁
    exact finishTxt_outcomesAgree hcfg h₁ h₂
  | a2b =>
    have htxt : s₁.txtBuf = s₂.txtBuf := hreads
    rw [exec_a2b, htxt] at h₁
    exact finishOut_outcomesAgree hcfg h₁ h₂
  | b2a =>
    have hin : s₁.inBuf = s₂.inBuf := hreads
    rw [exec_b2a, hin] at h₁
    exact finishTxt_outcomesAgree hcfg h₁ h₂

/-- Settles O9: the description by the two ways a command ends, the bits by the layout of the word. -/
theorem statusDescribesTheLastCommand : Obligations.StatusDescribesTheLastCommand := by
  unfold Obligations.StatusDescribesTheLastCommand
  refine ⟨fun c s t h => ?_, fun s => ⟨statusWord_code s, statusWord_valid s, statusWord_sticky s, statusWord_reserved s⟩⟩
  obtain ⟨hcmd, hvalid, hcode, hsticky⟩ := issueCommand_describesCommand h
  exact ⟨hcmd, hvalid, hcode, hsticky⟩

end Sys2Proof.Machine
end

section
/-! SUPPORT. The host's writes, those that can be made and those that cannot (10_state.md R19, R22, R25; log entry 4), and the state after
reset (R23). -/

namespace Sys2Proof.Machine

section
variable {s t : State} {rest : List HostAction} {n : Nat}

/-! ## Host writes -/

/-- A content within `BUF_MAX` is written. -/
theorem hostReplace_of_fits (h : s.cfg.fits n = true) : hostReplace s n t = .next t :=
  hostReplace_next.2 ⟨h, rfl⟩

/-- A content longer than `BUF_MAX` stops by name (log entry 4). -/
theorem hostReplace_of_not_fits (h : s.cfg.fits n = false) : hostReplace s n t = .fault .hostContentTooLong := by
  simp [hostReplace, h]

/-- What it is to hold characters only, as the statements write it (R19). -/
theorem Config.all_isChar_iff {cfg : Config} {x : List Nat} : x.all cfg.isChar = true ↔ ∀ c ∈ x, c < 2 ^ cfg.charW := by
  simp [Config.isChar]

/-- Where every element is a character, a write to `TXT` is a replacement like the others. -/
theorem hostReplaceTxt_of_chars {x : List Nat} (h : ∀ c ∈ x, c < 2 ^ s.cfg.charW) :
    hostReplaceTxt s x = hostReplace s x.length (s.setTxt x) := by
  simp only [hostReplaceTxt, Config.all_isChar_iff.2 h, if_true]

/-- A value of more than `CHAR_W` bits stops a write to `TXT` by name, whatever the length (log entry 4). -/
theorem hostReplaceTxt_of_not_char {x : List Nat} (h : ∃ c ∈ x, 2 ^ s.cfg.charW ≤ c) :
    hostReplaceTxt s x = .fault .hostNotACharacter := by
  obtain ⟨c, hc, hwide⟩ := h
  have hnot : ¬ x.all s.cfg.isChar = true := fun hall => absurd (Config.all_isChar_iff.1 hall c hc) (by omega)
  simp only [hostReplaceTxt, if_neg hnot]

/-- The step that copies `OUT` with a tail to `IN` is a replacement by their joint length (R57). -/
theorem step_copyOutToIn {b : List Byte} (h : s.script = .copyOutToIn b :: rest) :
    step s = hostReplace (s.setScript rest) (s.outBuf.length + b.length) ((s.setScript rest).setIn (s.outBuf ++ b)) := by
  rw [step_cons h, ← List.length_append]; rfl

/-- The step that appends to `IN` is a replacement by the joint length (R57). -/
theorem step_appendIn {b : List Byte} (h : s.script = .appendIn b :: rest) :
    step s = hostReplace (s.setScript rest) (s.inBuf.length + b.length) ((s.setScript rest).setIn (s.inBuf ++ b)) := by
  rw [step_cons h, ← List.length_append]; rfl

/-! ## The state after reset -/

/-- `STATUS` reads as zero after reset (R23). -/
theorem statusWord_resetWith (cfg : Config) : statusWord (State.resetWith cfg) = 0#32 := by
  simp [statusWord]

theorem State.inv_resetWith {cfg : Config} (h : cfg.wellFormed = true) : (State.resetWith cfg).Inv :=
  ⟨h, Memory.wf_resetWith cfg, rfl⟩

/-- The defaults of R6 are an admitted configuration. -/
theorem Config.default_wellFormed : Config.default.wellFormed = true := rfl

end

/-! ## The statements -/

/-- Settles O5, action by action: the next one is performed, and its content fits. -/
theorem hostActionsWriteTheirTargets : Obligations.HostActionsWriteTheirTargets := by
  unfold Obligations.HostActionsWriteTheirTargets
  intro s rest
  refine ⟨step_nil, ?writeIn, ?writeKey, ?writeWrd, ?writeTxt, ?writeOffset, ?writeValue, ?writeStatus, ?copyOutToIn, ?appendIn,
    ?copyOutToKey⟩
  case writeIn => exact fun b h hfit => (step_cons h).trans (hostReplace_of_fits hfit)
  case writeKey => exact fun b h hfit => (step_cons h).trans (hostReplace_of_fits hfit)
  case writeWrd => exact fun w h hfit => (step_cons h).trans (hostReplace_of_fits hfit)
  case writeTxt =>
    exact fun x h hfit hchars => (step_cons h).trans ((hostReplaceTxt_of_chars (s := s.setScript rest) hchars).trans (hostReplace_of_fits hfit))
  case writeOffset => exact fun v h => step_cons h
  case writeValue => exact fun v h => step_cons h
  case writeStatus => exact fun v h => step_cons h
  case copyOutToIn => exact fun b h hfit => (step_copyOutToIn h).trans (hostReplace_of_fits hfit)
  case appendIn => exact fun b h hfit => (step_appendIn h).trans (hostReplace_of_fits hfit)
  case copyOutToKey => exact fun h hfit => (step_cons h).trans (hostReplace_of_fits hfit)

/-- Settles O6, action by action: the next one is performed, and the model stops on what it cannot write. -/
theorem impossibleHostWritesStop : Obligations.ImpossibleHostWritesStop := by
  unfold Obligations.ImpossibleHostWritesStop
  intro s rest
  refine ⟨?writeIn, ?writeKey, ?writeWrd, ?writeTxtLong, ?writeTxtWide, ?copyOutToIn, ?appendIn⟩
  case writeIn => exact fun b h hlong => (step_cons h).trans (hostReplace_of_not_fits hlong)
  case writeKey => exact fun b h hlong => (step_cons h).trans (hostReplace_of_not_fits hlong)
  case writeWrd => exact fun w h hlong => (step_cons h).trans (hostReplace_of_not_fits hlong)
  case writeTxtLong =>
    exact fun x h hchars hlong => (step_cons h).trans ((hostReplaceTxt_of_chars (s := s.setScript rest) hchars).trans (hostReplace_of_not_fits hlong))
  case writeTxtWide => exact fun x h hwide => (step_cons h).trans (hostReplaceTxt_of_not_char hwide)
  case copyOutToIn => exact fun b h hlong => (step_copyOutToIn h).trans (hostReplace_of_not_fits hlong)
  case appendIn => exact fun b h hlong => (step_appendIn h).trans (hostReplace_of_not_fits hlong)

/-- Settles O7, item by item. -/
theorem resetValues : Obligations.ResetValues := by
  unfold Obligations.ResetValues
  refine ⟨fun cfg => ?_, rfl⟩
  exact ⟨State.resetWith_inBuf cfg, State.resetWith_keyBuf cfg, State.resetWith_outBuf cfg, State.resetWith_wrdBuf cfg,
    State.resetWith_txtBuf cfg, State.resetWith_offset cfg, State.resetWith_value cfg, State.resetWith_cmd cfg,
    statusWord_resetWith cfg⟩

/-- Settles O12: the default configuration is one of the admitted ones. -/
theorem resetMeetsTheInvariant : Obligations.ResetMeetsTheInvariant := by
  unfold Obligations.ResetMeetsTheInvariant
  exact ⟨State.inv_resetWith Config.default_wellFormed, fun _ h => State.inv_resetWith h⟩

end Sys2Proof.Machine
end

section
/-! SUPPORT. A command run again in the state that it left (20_memory.md R37): it answers, it reads what it read before, and it ends as it
ended before. -/

namespace Sys2Proof.Machine

section
variable {s t t' u : State} {i : Instr} {item : ResultItem}

/-! ## A command answers -/

/-- Every command answers a next state from every state: by the end it shares with the others (R214, R215). -/
theorem exec_answers (i : Instr) (s : State) : ∃ t, exec i s = .next t := by
  cases i with
  | xxteaEnc => exact exec_xxteaEnc s ▸ finishOut_answers s _
  | xxteaDec => exact exec_xxteaDec s ▸ finishOut_answers s _
  | crc32 => exact exec_crc32 s ▸ finishOut_answers s _
  | deflate => exact exec_deflate s ▸ finishOut_answers s _
  | inflate => exact exec_inflate s ▸ finishOut_answers s _
  | parseU32le => exact exec_parseU32le s ▸ finishValue_answers s _
  | writeU32le => exact exec_writeU32le s ▸ finishOut_answers s _
  | b2w => exact exec_b2w s ▸ finishWrd_answers s _
  | w2b => exact exec_w2b s ▸ finishOut_answers s _
  | reorder => exact exec_reorder s ▸ finishOut_answers s _
  | hexDec => exact exec_hexDec s ▸ finishOut_answers s _
  | hexEnc => exact exec_hexEnc s ▸ finishTxt_answers s _
  | a2b => exact exec_a2b s ▸ finishOut_answers s _
  | b2a => exact exec_b2a s ▸ finishTxt_answers s _

/-! ## What a command leaves of its operands -/

/-- A command reads no part of `STATUS` (R52, column "Reads"), so neither a fault nor the completion changes its operands. -/
theorem readsAgree_setStatus {code : BitVec 8} {valid sticky : Bool} :
    readsAgree i s (u.setStatus code valid sticky) ↔ readsAgree i s u := by
  cases i <;> rfl

theorem readsAgree_refl (i : Instr) (s : State) : readsAgree i s s := by
  cases i <;> simp [readsAgree]

/-- No command writes an item that it reads (R52, columns "Reads" and "Writes"). -/
theorem readsAgree_of_written (hu : (resultItem i).Written s u) : readsAgree i s u := by
  cases i <;> obtain ⟨_, rfl⟩ := hu <;> simp [readsAgree]

theorem exec_keeps_operands (h : exec i s = .next t) : readsAgree i s t := by
  obtain ⟨c, rfl⟩ | ⟨u, hu, rfl⟩ := exec_endsWith h
  · exact readsAgree_setStatus.2 (readsAgree_refl i s)
  · exact readsAgree_setStatus.2 (readsAgree_of_written hu)

/-- A result is no parameter (R6). -/
theorem ResultItem.Written.cfg (hu : item.Written s u) : u.cfg = s.cfg := by
  cases item <;> obtain ⟨_, rfl⟩ := hu <;> rfl

theorem exec_keeps_cfg (h : exec i s = .next t) : t.cfg = s.cfg := by
  obtain ⟨c, rfl⟩ | ⟨u, hu, rfl⟩ := exec_endsWith h
  · rfl
  · exact hu.cfg

/-! ## The same end twice -/

/-- Of two faults in a row the second alone shows: `STICKY` is set already (R214). -/
theorem takeFault_takeFault (c d : Cause) (s : State) : takeFault d (takeFault c s) = takeFault d s := rfl

theorem complete_complete (s : State) : complete (complete s) = complete s := rfl

/-- To write an item the content that it holds changes nothing. -/
theorem ResultItem.Written.eq_of_itemAgrees (hu : item.Written s u) (hitem : itemAgrees item s u) : u = s := by
  cases item <;> obtain ⟨_, rfl⟩ := hu <;> cases hitem <;> rfl

theorem itemAgrees_complete : itemAgrees item s (complete u) ↔ itemAgrees item s u := by
  cases item <;> rfl

/-- A command that ends in `t`, and then in `t` as it did before, leaves `t`: the same fault again, or the same content put where it
already stands. -/
theorem EndsWith.eq_of_outcomesAgree (h : EndsWith item s t) (h' : EndsWith item t t') (hout : OutcomesAgree item t t') :
    t' = t := by
  obtain ⟨hcode, hitem⟩ := hout
  obtain ⟨c, rfl⟩ | ⟨u, -, rfl⟩ := h <;> obtain ⟨d, rfl⟩ | ⟨u', hu', rfl⟩ := h'
  case inl.inl =>
    obtain rfl : c = d := causeCode_injective hcode
    exact takeFault_takeFault c c s
  case inl.inr => exact absurd hcode (causeCode_ne_ok c)
  case inr.inl => exact absurd hcode.symm (causeCode_ne_ok d)
  case inr.inr =>
    obtain rfl : u' = complete u := hu'.eq_of_itemAgrees (itemAgrees_complete.1 (hitem rfl))
    exact complete_complete u

end

/-! ## The statement -/

/-- Settles O17: the repeated command finds the operands of the first, so by O18 its outcome is the same. -/
theorem repeatedCommandIsIdempotent : Obligations.RepeatedCommandIsIdempotent := by
  unfold Obligations.RepeatedCommandIsIdempotent
  intro i s t h
  obtain ⟨t', h'⟩ := exec_answers i t
  have hout : OutcomesAgree (resultItem i) t t' :=
    outcomeDependsOnOperandsOnly i s t t t' (exec_keeps_operands h) (exec_keeps_cfg h).symm h h'
  obtain rfl : t' = t := (exec_endsWith h).eq_of_outcomesAgree (exec_endsWith h') hout
  exact h'

end Sys2Proof.Machine
end

section
/-! SUPPORT. The decoder and the encoder (30_encoding.md R50 to R53): the rows of the opcode map, the values that decode to a command and
those that decode to nothing, and the step that issues a value written to `CMD`. -/

namespace Sys2Proof.Machine

open Sys2Proof.Laws

section
variable {c : Word} {i : Instr} {e : DecodeError} {row : OpcodeRow} {s : State} {rest : List HostAction}

/-! ## The opcode map -/

/-- Every row of the opcode map compares the whole value with its command's word (R52). -/
theorem opcodeMap_row (h : row ∈ opcodeMap) : row.mask = BitVec.allOnes 32 ∧ row.pattern = encode row.instr := by
  have all : ∀ row ∈ opcodeMap, row.mask = BitVec.allOnes 32 ∧ row.pattern = encode row.instr := by decide
  exact all row h

/-- The value that selects a row is the word of the row's command (R52). -/
theorem eq_encode_of_selectRow (h : selectRow c = some row) : c = encode row.instr := by
  obtain ⟨hmask, hpattern⟩ := opcodeMap_row (List.mem_of_find?_eq_some h)
  have hmatch : c &&& row.mask = row.pattern := by simpa using List.find?_some h
  rwa [hmask, BitVec.and_allOnes, hpattern] at hmatch

/-- The family `EncodingShape`, for every command. -/
theorem encodingShape (i : Instr) : EncodingShape.Statement i := by
  cases i with
  | xxteaEnc => exact EncodingShape.xxteaEnc
  | xxteaDec => exact EncodingShape.xxteaDec
  | crc32 => exact EncodingShape.crc32
  | deflate => exact EncodingShape.deflate
  | inflate => exact EncodingShape.inflate
  | parseU32le => exact EncodingShape.parseU32le
  | writeU32le => exact EncodingShape.writeU32le
  | b2w => exact EncodingShape.b2w
  | w2b => exact EncodingShape.w2b
  | reorder => exact EncodingShape.reorder
  | hexDec => exact EncodingShape.hexDec
  | hexEnc => exact EncodingShape.hexEnc
  | a2b => exact EncodingShape.a2b
  | b2a => exact EncodingShape.b2a

/-- `RSV` of a command's word is zero (R50). -/
@[simp] theorem reservedField_encode (i : Instr) : reservedField (encode i) = 0#24 := by
  obtain ⟨hrsv, -, -⟩ := encodingShape i
  exact hrsv

/-! ## The decoder -/

theorem decode_of_selectRow (h : selectRow c = some row) : decode c = .ok row.instr := by simp only [decode, h]

/-- A value that selects no row is rejected by the name that `RSV` gives it (R53). -/
theorem decode_of_selectRow_none (h : selectRow c = none) :
    decode c = .error (if reservedField c = 0#24 then .unassignedOpcode else .reservedBitsSet) := by
  simp only [decode, h]
  split <;> rfl

@[simp] theorem decode_encode (i : Instr) : decode (encode i) = .ok i := by
  obtain ⟨-, -, hrow⟩ := encodingShape i
  obtain ⟨row, hsel, rfl⟩ := Option.map_eq_some_iff.1 hrow
  exact decode_of_selectRow hsel

theorem decode_eq_ok_iff : decode c = .ok i ↔ c = encode i := by
  constructor
  · intro h
    cases hsel : selectRow c with
    | none => rw [decode_of_selectRow_none hsel] at h; cases h
    | some row =>
      rw [decode_of_selectRow hsel] at h
      cases h
      exact eq_encode_of_selectRow hsel
  · rintro rfl
    exact decode_encode i

/-- A value that is no command's word is rejected (R53). -/
theorem decode_of_ne_encode (h : ∀ i, c ≠ encode i) :
    decode c = .error (if reservedField c = 0#24 then .unassignedOpcode else .reservedBitsSet) := by
  cases hsel : selectRow c with
  | none => exact decode_of_selectRow_none hsel
  | some row => exact absurd (eq_encode_of_selectRow hsel) (h row.instr)

/-- A value with a bit of `RSV` set is rejected whatever its `OPCODE` (R53). -/
theorem decode_of_reservedField_ne_zero (h : reservedField c ≠ 0#24) : decode c = .error .reservedBitsSet := by
  have hne : ∀ i, c ≠ encode i := by
    rintro i rfl
    exact h (reservedField_encode i)
  rw [decode_of_ne_encode hne, if_neg h]

/-! ## The values that decode to nothing -/

/-- The fourteen values of the opcode map (R52). -/
def assignedOpcodes : List Nat := opcodeMap.map fun row => row.pattern.toNat

theorem assignedOpcodes_nodup : assignedOpcodes.Nodup := by decide

theorem assignedOpcodes_lt {n : Nat} (h : n ∈ assignedOpcodes) : n < 256 := by
  have all : ∀ n ∈ assignedOpcodes, n < 256 := by decide
  exact all n h

theorem toNat_mem_assignedOpcodes_iff : c.toNat ∈ assignedOpcodes ↔ ∃ i, decode c = .ok i := by
  simp only [assignedOpcodes, List.mem_map]
  constructor
  · rintro ⟨row, hrow, hc⟩
    obtain ⟨-, hpattern⟩ := opcodeMap_row hrow
    exact ⟨row.instr, decode_eq_ok_iff.2 (hpattern ▸ (BitVec.eq_of_toNat_eq hc).symm)⟩
  · rintro ⟨i, hi⟩
    cases hsel : selectRow c with
    | none => rw [decode_of_selectRow_none hsel] at hi; cases hi
    | some row =>
      obtain ⟨-, hpattern⟩ := opcodeMap_row (List.mem_of_find?_eq_some hsel)
      exact ⟨row, List.mem_of_find?_eq_some hsel, by rw [hpattern, ← eq_encode_of_selectRow hsel]⟩

/-- An `OPCODE` with `RSV = 0` decodes to nothing exactly where the opcode map does not assign it (R53). -/
theorem decode_ofNat_isNone {n : Nat} (h : n < 256) :
    (decode (BitVec.ofNat 32 n)).toOption.isNone = !decide (n ∈ assignedOpcodes) := by
  have hn : (BitVec.ofNat 32 n).toNat = n := by rw [BitVec.toNat_ofNat]; omega
  have hmem := toNat_mem_assignedOpcodes_iff (c := BitVec.ofNat 32 n)
  rw [hn] at hmem
  cases hc : decode (BitVec.ofNat 32 n) with
  | ok i => simp [hmem, hc, Except.toOption]
  | error e => simp [hmem, hc, Except.toOption]

/-- Of the 256 values with `RSV = 0`, all but the fourteen assigned ones decode to nothing (R53). -/
theorem length_unassigned_opcodes :
    ((List.range 256).filter fun n => (decode (BitVec.ofNat 32 n)).toOption.isNone).length = 242 := by
  have hassigned : ((List.range 256).filter (· ∈ assignedOpcodes)).Perm assignedOpcodes := by
    rw [List.perm_ext_iff_of_nodup (List.nodup_range.filter _) assignedOpcodes_nodup]
    intro n
    simpa using assignedOpcodes_lt
  have hsplit := List.length_eq_length_filter_add (l := List.range 256) (· ∈ assignedOpcodes)
  rw [hassigned.length_eq, List.length_range] at hsplit
  have hlen : assignedOpcodes.length = 14 := rfl
  rw [List.filter_congr fun n hn => decode_ofNat_isNone (List.mem_range.1 hn)]
  omega

/-! ## The step that issues a value -/

/-- With a write to `CMD` next, the step issues the value with the action taken off (R51). -/
theorem step_writeCmd (h : s.script = .writeCmd c :: rest) : step s = issueCommand c (s.setScript rest) := step_cons h

/-- The state of `IllegalCommand`: `CMD` and the three fields of `STATUS` change, nothing else (R53, R214). -/
theorem issueCommand_illegal (h : decode c = .error e) (s : State) :
    issueCommand c s = .next { s with cmd := c, code := 1#8, valid := true, sticky := true } :=
  issueCommand_of_decode_error h s

/-- To place a command is to put the write of its word before the pending actions (R12). -/
theorem withFetchWord_encode (s : State) (i : Instr) :
    s.withFetchWord 32 (encode i).toNat = s.setScript (.writeCmd (encode i) :: s.script) := by
  simp only [State.withFetchWord, placeCommand, Nat.mod_eq_of_lt (encode i).isLt, BitVec.ofNat_toNat, BitVec.setWidth_eq]

end

/-! ## The statements -/

/-- Settles O1: the decoder answers a command exactly on its word. -/
theorem decodeIsInverseOfEncode : Obligations.DecodeIsInverseOfEncode := by
  unfold Obligations.DecodeIsInverseOfEncode
  exact ⟨decode_encode, fun _ _ h => decode_eq_ok_iff.1 h⟩

/-- Settles O3: a value that is no command's word is rejected, and an issued value that is rejected is `IllegalCommand`. -/
theorem otherValuesAreIllegal : Obligations.OtherValuesAreIllegal := by
  unfold Obligations.OtherValuesAreIllegal
  refine ⟨fun c => ?total, ?zero, length_unassigned_opcodes, fun c h => decode_of_reservedField_ne_zero h, fun c s h => ?illegal⟩
  case total =>
    cases h : decode c with
    | ok i => exact .inl ⟨i, rfl⟩
    | error e => exact .inr ⟨e, rfl⟩
  case zero => rfl
  case illegal => exact issueCommand_illegal (decode_of_ne_encode h) s

/-- Settles O2: each of the words is the encoder's. -/
theorem specWordsDecode : Obligations.SpecWordsDecode := by
  unfold Obligations.SpecWordsDecode
  exact ⟨decode_encode .xxteaEnc, decode_encode .xxteaDec, decode_encode .crc32, decode_encode .deflate, decode_encode .inflate,
    decode_encode .writeU32le, decode_encode .reorder, decode_encode .hexDec, decode_encode .b2a⟩

/-- Settles O4: the step issues the value, which runs the decoded command or is `IllegalCommand`. -/
theorem stepRunsTheDecodedCommand : Obligations.StepRunsTheDecodedCommand := by
  unfold Obligations.StepRunsTheDecodedCommand
  refine ⟨fun s c rest i hs hc => ?decoded, fun s c rest hs => step_writeCmd hs, fun s c rest e hs hc => ?rejected,
    fun s i => ?placed⟩
  case decoded => exact (step_writeCmd hs).trans (issueCommand_of_decode_ok hc _)
  case rejected => exact (step_writeCmd hs).trans (issueCommand_illegal hc _)
  case placed =>
    rw [withFetchWord_encode]
    exact (step_writeCmd rfl).trans (issueCommand_of_decode_ok (decode_encode i) _)

end Sys2Proof.Machine
end

section
/-! SUPPORT. The words of a buffer and the bytes of words (20_memory.md R31, R34): each undoes the other. -/

namespace Sys2Proof.Machine

/-- The words of the words' bytes (R34). -/
@[simp] theorem wordsLe_bytesLe : ∀ ws : List Word, wordsLe (bytesLe ws) = ws
  | [] => rfl
  | w :: ws => by simp [bytesLe32, le32_bytes_of_word, wordsLe_bytesLe ws]

/-- The bytes of a buffer's words are the buffer without its remainder below four bytes (R34, R35). -/
theorem bytesLe_wordsLe : ∀ b : List Byte, bytesLe (wordsLe b) = b.take (b.length - b.length % 4)
  | [] => rfl
  | [_] => rfl
  | [_, _] => rfl
  | [_, _, _] => rfl
  | b0 :: b1 :: b2 :: b3 :: rest => by
    have hlen : rest.length + 4 - (rest.length + 4) % 4 = rest.length - rest.length % 4 + 4 := by omega
    simp [bytesLe32_le32, bytesLe_wordsLe rest, hlen]

end Sys2Proof.Machine
end

section
/-! SUPPORT. The rounds of the cipher (41_xxtea.md R71 to R74, R80): the mix of a position, the positions of a sweep, the sweeps of the
rounds, and how the positions and the sweeps of the two commands undo each other. -/

namespace Sys2Proof.Machine

/-! ## Folds of updates -/

section
variable {α β : Type} {P : β → Prop} {f g : β → α → β}

/-- Updates that undo each other one by one, taken in reverse order, undo the whole fold. -/
theorem foldl_reverse_cancels (hP : ∀ s a, P s → P (f s a)) (hg : ∀ s a, P s → g (f s a) a = s) :
    ∀ (l : List α) (s : β), P s → l.reverse.foldl g (l.foldl f s) = s
  | [], _, _ => rfl
  | a :: l, s, hs => by
    have ih : l.reverse.foldl g (l.foldl f (f s a)) = f s a := foldl_reverse_cancels hP hg l _ (hP s a hs)
    simp [ih, hg s a hs]

/-- Updates that agree where an invariant holds make the same fold from there. -/
theorem foldl_congr_of_invariant (hP : ∀ s a, P s → P (f s a)) (hg : ∀ s a, P s → f s a = g s a) :
    ∀ (l : List α) (s : β), P s → l.foldl f s = l.foldl g s
  | [], _, _ => rfl
  | a :: l, s, hs => by
    rw [List.foldl_cons, List.foldl_cons, ← hg s a hs, foldl_congr_of_invariant hP hg l _ (hP s a hs)]

end

/-- A fold of updates of single positions keeps a position that it does not name. -/
theorem foldl_getD_of_notMem {f : List Word → Nat → List Word} {q : Nat}
    (hf : ∀ s p, q ≠ p → (f s p).getD q 0#32 = s.getD q 0#32) :
    ∀ (ps : List Nat) (s : List Word), q ∉ ps → (ps.foldl f s).getD q 0#32 = s.getD q 0#32
  | [], _, _ => rfl
  | p :: ps, s, hq => by
    obtain ⟨hne, hnot⟩ := not_or.1 (List.mem_cons.not.1 hq)
    rw [List.foldl_cons, foldl_getD_of_notMem hf ps _ hnot, hf s p hne]

/-! ## The mix of a position -/

section
variable (cfg : Config) (g : List Word) (sum : Word)

/-- The mix of the next word `nxt` and the previous word `prv` at position `p`, `y` and `z` by `XXTEA_YZ` (R71, R80): what `mixAt` forms
from the neighbours that it finds in the array. -/
def mixOfNeighbours (nxt prv : Word) (p : Nat) : Word :=
  match cfg.xxteaYZ with
  | .literal => mix cfg.xxteaShr g nxt prv sum p (sumIndex sum)
  | .swapped => mix cfg.xxteaShr g prv nxt sum p (sumIndex sum)

theorem mixAt_eq_mixOfNeighbours (s : List Word) (p : Nat) :
    mixAt cfg g sum s p = mixOfNeighbours cfg g sum (nextWord s p) (prevWord s p) p := by
  unfold mixAt mixOfNeighbours
  cases cfg.xxteaYZ <;> rfl

theorem shiftRight_eq_ite (k : ShiftKind) (a : Word) (n : Nat) :
    shiftRight k a n = if k = .logical then a >>> n else a.sshiftRight n := by
  cases k <;> rfl

/-- The key index of R71 in terms of numbers: `p AND 3` is a remainder, `sum[3:2]` a digit of `sum` to the base 4. -/
theorem keyWord_sumIndex (p : Nat) :
    keyWord g p (sumIndex sum) = g.getD ((p % 4) ^^^ (sum.toNat / 4 % 4)) 0#32 := by
  have hp : p &&& 3 = p % 4 := Nat.and_two_pow_sub_one_eq_mod p 2
  have he : sumIndex sum = sum.toNat / 4 % 4 := by
    simp [sumIndex, BitVec.extractLsb'_toNat, Nat.shiftRight_eq_div_pow]
  rw [keyWord, hp, he]

/-- R71's formula written out, the key index in terms of numbers. -/
theorem mix_sumIndex (k : ShiftKind) (y z : Word) (p : Nat) :
    mix k g y z sum p (sumIndex sum) = ((shiftRight k y 5 ^^^ (z <<< 2)) + (shiftRight k z 3 ^^^ (y <<< 4))) ^^^
      ((sum ^^^ z) + (g.getD ((p % 4) ^^^ (sum.toNat / 4 % 4)) 0#32 ^^^ y)) := by
  rw [mix, keyWord_sumIndex]

end

/-! ## One position of a sweep -/

section
variable {cfg : Config} {g : List Word} {sum : Word} {d p q : Nat}

/-- From two words on no position is its own next position. -/
theorem succ_mod_ne_self (hd : 2 ≤ d) : (p + 1) % d ≠ p := by
  intro h
  have hlt : p < d := h ▸ Nat.mod_lt _ (by omega)
  obtain hp | hp := Nat.lt_or_eq_of_le (show p + 1 ≤ d from hlt)
  · rw [Nat.mod_eq_of_lt hp] at h; omega
  · rw [hp, Nat.mod_self] at h; omega

/-- From two words on no position is its own previous position. -/
theorem pred_mod_ne_self (hd : 2 ≤ d) : (p + d - 1) % d ≠ p := by
  intro h
  have hlt : p < d := h ▸ Nat.mod_lt _ (by omega)
  obtain rfl | hp := Nat.eq_zero_or_pos p
  · rw [Nat.mod_eq_of_lt (by omega)] at h; omega
  · rw [show p + d - 1 = p - 1 + d by omega, Nat.add_mod_right, Nat.mod_eq_of_lt (by omega)] at h; omega

theorem getD_set_of_ne {s : List Word} {v : Word} (h : q ≠ p) : (s.set p v).getD q 0#32 = s.getD q 0#32 := by
  simp [List.getD_eq_getElem?_getD, List.getElem?_set_ne h.symm]

theorem getD_set_self {s : List Word} {v : Word} (h : p < s.length) : (s.set p v).getD p 0#32 = v := by
  simp [List.getD_eq_getElem?_getD, h]

theorem set_getD_self (s : List Word) (p : Nat) : s.set p (s.getD p 0#32) = s := by
  obtain hp | hp := Nat.lt_or_ge p s.length
  · simp [hp]
  · exact List.set_eq_of_length_le hp

/-- The mix of a position does not depend on the word at the position itself. -/
theorem mixAt_set_self {s : List Word} {v : Word} (hs : 2 ≤ s.length) :
    mixAt cfg g sum (s.set p v) p = mixAt cfg g sum s p := by
  have hnext : nextWord (s.set p v) p = nextWord s p := by
    rw [nextWord, List.length_set, getD_set_of_ne (succ_mod_ne_self hs), nextWord]
  have hprev : prevWord (s.set p v) p = prevWord s p := by
    rw [prevWord, List.length_set, getD_set_of_ne (pred_mod_ne_self hs), prevWord]
  rw [mixAt_eq_mixOfNeighbours, mixAt_eq_mixOfNeighbours, hnext, hprev]

theorem getD_encPosition_of_ne (s : List Word) (h : q ≠ p) :
    (encPosition cfg g sum s p).getD q 0#32 = s.getD q 0#32 := getD_set_of_ne h

theorem getD_encPosition_self {s : List Word} (h : p < s.length) :
    (encPosition cfg g sum s p).getD p 0#32 = s.getD p 0#32 + mixAt cfg g sum s p := getD_set_self h

/-- What the forward step adds to a word the backward step takes away again: the mix is the same. -/
theorem decPosition_encPosition {s : List Word} (hs : 2 ≤ s.length) :
    decPosition cfg g sum (encPosition cfg g sum s p) p = s := by
  obtain hp | hp := Nat.lt_or_ge p s.length
  · rw [decPosition, getD_encPosition_self hp, encPosition, mixAt_set_self hs, List.set_set, BitVec.add_sub_cancel, set_getD_self]
  · simp [decPosition, encPosition, List.set_eq_of_length_le hp]

theorem encPosition_decPosition {s : List Word} (hs : 2 ≤ s.length) :
    encPosition cfg g sum (decPosition cfg g sum s p) p = s := by
  obtain hp | hp := Nat.lt_or_ge p s.length
  · rw [encPosition, decPosition, getD_set_self hp, mixAt_set_self hs, List.set_set, BitVec.sub_add_cancel, set_getD_self]
  · simp [decPosition, encPosition, List.set_eq_of_length_le hp]

end

/-! ## A sweep -/

section
variable (cfg : Config) (g : List Word) (sum : Word)

theorem decSweep_encSweep {s : List Word} (hs : 2 ≤ s.length) : decSweep cfg g sum (encSweep cfg g sum s) = s := by
  rw [decSweep, encSweep_length, encSweep]
  exact foldl_reverse_cancels (P := fun w => 2 ≤ w.length) (fun w p hw => by rwa [encPosition_length])
    (fun w p hw => decPosition_encPosition hw) _ s hs

theorem encSweep_decSweep {s : List Word} (hs : 2 ≤ s.length) : encSweep cfg g sum (decSweep cfg g sum s) = s := by
  have h := foldl_reverse_cancels (P := fun w => 2 ≤ w.length) (f := decPosition cfg g sum) (g := encPosition cfg g sum)
    (fun w p hw => by rwa [decPosition_length]) (fun w p hw => encPosition_decPosition hw) (List.range s.length).reverse s hs
  rwa [List.reverse_reverse, ← decSweep, ← decSweep_length cfg g sum s, ← encSweep] at h

/-- The forward sweep after its first `k` positions. -/
def encSweepUpTo (k : Nat) (s : List Word) : List Word := (List.range k).foldl (encPosition cfg g sum) s

variable {cfg g sum} {s : List Word} {k p q : Nat}

theorem encSweepUpTo_succ : encSweepUpTo cfg g sum (k + 1) s = encPosition cfg g sum (encSweepUpTo cfg g sum k s) k := by
  rw [encSweepUpTo, List.range_succ, List.foldl_append, List.foldl_cons, List.foldl_nil, encSweepUpTo]

@[simp] theorem encSweepUpTo_length : (encSweepUpTo cfg g sum k s).length = s.length :=
  foldl_length (encPosition_length cfg g sum) _ s

/-- The positions from `k` on are not yet swept. -/
theorem getD_encSweepUpTo_of_le (h : k ≤ q) : (encSweepUpTo cfg g sum k s).getD q 0#32 = s.getD q 0#32 :=
  foldl_getD_of_notMem (fun _ _ => getD_encPosition_of_ne _) _ s (by simpa using h)

/-- The positions below `k` are swept: those after them leave them as they are. -/
theorem getD_encSweepUpTo_stable {m : Nat} (hq : q < k) (hk : k ≤ m) :
    (encSweepUpTo cfg g sum m s).getD q 0#32 = (encSweepUpTo cfg g sum k s).getD q 0#32 := by
  induction m, hk using Nat.le_induction with
  | base => rfl
  | succ m hm ih => rw [encSweepUpTo_succ, getD_encPosition_of_ne _ (Nat.ne_of_lt (hq.trans_le hm)), ih]

theorem getD_encSweepUpTo_of_lt (hq : q < k) (hk : k ≤ s.length) :
    (encSweepUpTo cfg g sum k s).getD q 0#32 = (encSweep cfg g sum s).getD q 0#32 :=
  (getD_encSweepUpTo_stable hq hk).symm

/-- What a forward sweep does at one position (R73): the neighbours are those in the array when the position's turn comes. -/
theorem getD_encSweep (hp : p < s.length) :
    (encSweep cfg g sum s).getD p 0#32 = s.getD p 0#32 +
      mixOfNeighbours cfg g sum (nextWord (encSweepUpTo cfg g sum p s) p) (prevWord (encSweepUpTo cfg g sum p s) p) p := by
  rw [← getD_encSweepUpTo_of_lt (Nat.lt_succ_self p) hp, encSweepUpTo_succ, getD_encPosition_self (by rwa [encSweepUpTo_length]),
    getD_encSweepUpTo_of_le (le_refl p), mixAt_eq_mixOfNeighbours]

/-- The next word is not yet swept, but for the last position, whose next word is the first, swept already (R80). -/
theorem nextWord_encSweepUpTo (hs : 2 ≤ s.length) (hp : p < s.length) :
    nextWord (encSweepUpTo cfg g sum p s) p =
      if p + 1 = s.length then (encSweep cfg g sum s).getD 0 0#32 else s.getD (p + 1) 0#32 := by
  rw [nextWord, encSweepUpTo_length]
  split
  next hlast => rw [hlast, Nat.mod_self, getD_encSweepUpTo_of_lt (by omega) hp.le]
  next hlast => rw [Nat.mod_eq_of_lt (by omega), getD_encSweepUpTo_of_le (Nat.le_succ p)]

/-- The previous word is swept, but for the first position, whose previous word is the last, not yet swept (R80). -/
theorem prevWord_encSweepUpTo (hp : p < s.length) :
    prevWord (encSweepUpTo cfg g sum p s) p =
      if p = 0 then s.getD (s.length - 1) 0#32 else (encSweep cfg g sum s).getD (p - 1) 0#32 := by
  rw [prevWord, encSweepUpTo_length]
  split
  next hfirst => rw [hfirst, Nat.mod_eq_of_lt (by omega), Nat.zero_add, getD_encSweepUpTo_of_le (Nat.zero_le _)]
  next hfirst =>
    rw [show p + s.length - 1 = p - 1 + s.length by omega, Nat.add_mod_right, Nat.mod_eq_of_lt (by omega),
      getD_encSweepUpTo_of_lt (by omega) hp.le]

end

/-! ## The rounds -/

section
variable (cfg : Config) (g : List Word)

/-- The sweep of round `k` of the encryption, counted from 0: its `sum` is `(k + 1) * DELTA` (R72). -/
def encRound (s : List Word) (k : Nat) : List Word := encSweep cfg g (BitVec.ofNat 32 (k + 1) * xxteaDelta) s

/-- The sweep that undoes the encryption's round `k`, with the same `sum` (R74). -/
def decRound (s : List Word) (k : Nat) : List Word := decSweep cfg g (BitVec.ofNat 32 (k + 1) * xxteaDelta) s

@[simp] theorem encRound_length (s : List Word) (k : Nat) : (encRound cfg g s k).length = s.length :=
  encSweep_length cfg g _ s

@[simp] theorem decRound_length (s : List Word) (k : Nat) : (decRound cfg g s k).length = s.length :=
  decSweep_length cfg g _ s

/-- One more step of `DELTA` is the next multiple (R72). -/
theorem ofNat_mul_delta_succ (k : Nat) :
    BitVec.ofNat 32 (k + 1) * xxteaDelta = BitVec.ofNat 32 k * xxteaDelta + xxteaDelta := by
  rw [BitVec.ofNat_add, BitVec.add_mul, BitVec.one_mul]

/-- From round `k` on the encryption's accumulated `sum` is the multiple of `DELTA` that its round number gives (R73). -/
theorem encRounds_eq_foldl : ∀ (n k : Nat) (s : List Word),
    encRounds cfg g n (BitVec.ofNat 32 k * xxteaDelta) s = (List.range' k n).foldl (encRound cfg g) s
  | 0, _, _ => rfl
  | n + 1, k, s => by
    rw [encRounds, ← ofNat_mul_delta_succ, encRounds_eq_foldl n (k + 1), List.range'_succ, List.foldl_cons, encRound]

/-- The decryption's `sum` runs through the same multiples from the last to the first (R74). -/
theorem decRounds_eq_foldl : ∀ (n : Nat) (s : List Word),
    decRounds cfg g n (BitVec.ofNat 32 n * xxteaDelta) s = (List.range n).reverse.foldl (decRound cfg g) s
  | 0, _ => rfl
  | n + 1, s => by
    have hback : BitVec.ofNat 32 (n + 1) * xxteaDelta - xxteaDelta = BitVec.ofNat 32 n * xxteaDelta := by
      rw [ofNat_mul_delta_succ, BitVec.add_sub_cancel]
    rw [decRounds, hback, decRounds_eq_foldl n, List.range_succ, List.reverse_concat, List.foldl_cons, decRound]

theorem encryptWords_eq_foldl (s : List Word) :
    encryptWords cfg g s = (List.range (xxteaRounds s.length)).foldl (encRound cfg g) s := by
  have hzero : 0#32 = BitVec.ofNat 32 0 * xxteaDelta := rfl
  rw [encryptWords, hzero, encRounds_eq_foldl, List.range_eq_range']

theorem decryptWords_eq_foldl (s : List Word) :
    decryptWords cfg g s = (List.range (xxteaRounds s.length)).reverse.foldl (decRound cfg g) s :=
  decRounds_eq_foldl cfg g _ s

/-- Decryption undoes encryption, sweep by sweep (R79). -/
theorem decryptWords_encryptWords {s : List Word} (hs : 2 ≤ s.length) :
    decryptWords cfg g (encryptWords cfg g s) = s := by
  rw [decryptWords_eq_foldl, encryptWords_length, encryptWords_eq_foldl]
  exact foldl_reverse_cancels (P := fun w => 2 ≤ w.length) (fun w k hw => by rwa [encRound_length])
    (fun w k hw => decSweep_encSweep cfg g _ hw) _ s hs

/-- Encryption undoes decryption, sweep by sweep (R79). -/
theorem encryptWords_decryptWords {s : List Word} (hs : 2 ≤ s.length) :
    encryptWords cfg g (decryptWords cfg g s) = s := by
  have h := foldl_reverse_cancels (P := fun w => 2 ≤ w.length) (f := decRound cfg g) (g := encRound cfg g)
    (fun w k hw => by rwa [decRound_length]) (fun w k hw => encSweep_decSweep cfg g _ hw)
    (List.range (xxteaRounds s.length)).reverse s hs
  rwa [List.reverse_reverse, ← decryptWords_eq_foldl, ← decryptWords_length cfg g s, ← encryptWords_eq_foldl] at h

end

/-! ## Two words -/

section
variable (cfg : Config) (g : List Word) (sum : Word) (yz : NeighbourOrder) {s : List Word}

/-- Of two words the next and the previous one of a position are the same. -/
theorem nextWord_eq_prevWord (hs : s.length = 2) (p : Nat) : nextWord s p = prevWord s p := by
  have hindex : (p + 1) % 2 = (p + 2 - 1) % 2 := rfl
  rw [nextWord, prevWord, hs, hindex]

/-- For two words the mix is the same under both settings of `XXTEA_YZ` (R80). -/
theorem mixAt_of_two_words (hs : s.length = 2) (p : Nat) :
    mixAt { cfg with xxteaYZ := yz } g sum s p = mixAt cfg g sum s p := by
  unfold mixAt
  rw [nextWord_eq_prevWord hs]
  cases yz <;> cases cfg.xxteaYZ <;> rfl

theorem encSweep_of_two_words (hs : s.length = 2) : encSweep { cfg with xxteaYZ := yz } g sum s = encSweep cfg g sum s :=
  foldl_congr_of_invariant (P := fun w => w.length = 2) (fun w p hw => by rwa [encPosition_length])
    (fun w p hw => by rw [encPosition, mixAt_of_two_words cfg g sum yz hw, encPosition]) _ s hs

theorem decSweep_of_two_words (hs : s.length = 2) : decSweep { cfg with xxteaYZ := yz } g sum s = decSweep cfg g sum s :=
  foldl_congr_of_invariant (P := fun w => w.length = 2) (fun w p hw => by rwa [decPosition_length])
    (fun w p hw => by rw [decPosition, mixAt_of_two_words cfg g sum yz hw, decPosition]) _ s hs

theorem encryptWords_of_two_words (hs : s.length = 2) :
    encryptWords { cfg with xxteaYZ := yz } g s = encryptWords cfg g s := by
  rw [encryptWords_eq_foldl, encryptWords_eq_foldl]
  exact foldl_congr_of_invariant (P := fun w => w.length = 2) (fun w k hw => (encRound_length _ g w k).trans hw)
    (fun w k hw => encSweep_of_two_words cfg g _ yz hw) _ s hs

theorem decryptWords_of_two_words (hs : s.length = 2) :
    decryptWords { cfg with xxteaYZ := yz } g s = decryptWords cfg g s := by
  rw [decryptWords_eq_foldl, decryptWords_eq_foldl]
  exact foldl_congr_of_invariant (P := fun w => w.length = 2) (fun w k hw => (decRound_length _ g w k).trans hw)
    (fun w k hw => decSweep_of_two_words cfg g _ yz hw) _ s hs

end

end Sys2Proof.Machine
end

section
/-! SUPPORT. The cipher commands (41_xxtea.md R70, R73 to R79, R81): what both do around their rounds, case by case, for any rounds; and
the statements. -/

namespace Sys2Proof.Machine

section
variable {rounds enc dec : List Word → List Word → List Word} {cfg : Config} {data key : List Byte}

/-! ## The result, case by case -/

theorem keyWords_append (h : 16 ≤ key.length) (extra : List Byte) : keyWords (key ++ extra) = keyWords key := by
  simp [keyWords, memRead, List.take_append_of_le_length h]

theorem cipherResult_of_no_byte (h : data = []) : cipherResult rounds cfg data key = .ok [] := by
  rw [cipherResult, h, if_pos List.length_nil]

theorem cipherResult_of_short_key (hd : 0 < data.length) (hk : key.length < 16) :
    cipherResult rounds cfg data key = .error .keyTooShort := by
  rw [cipherResult, if_neg (by omega), if_pos hk]

theorem cipherResult_of_no_word (hd : 0 < data.length) (hd4 : data.length < 4) (hk : 16 ≤ key.length) :
    cipherResult rounds cfg data key = .error .zeroWords := by
  rw [cipherResult, if_neg (by omega), if_neg (by omega), if_pos (by omega)]

theorem cipherResult_of_one_word (hd4 : 4 ≤ data.length) (hd8 : data.length < 8) (hk : 16 ≤ key.length)
    (hd1 : cfg.xxteaD1 = .identity) : cipherResult rounds cfg data key = .ok (data.take 4) := by
  rw [cipherResult, if_neg (by omega), if_neg (by omega), if_neg (by omega), if_pos (by omega), hd1]
  rfl

theorem cipherResult_of_one_word_fault (hd4 : 4 ≤ data.length) (hd8 : data.length < 8) (hk : 16 ≤ key.length)
    (hd1 : cfg.xxteaD1 = .fault) : cipherResult rounds cfg data key = .error .zeroWords := by
  rw [cipherResult, if_neg (by omega), if_neg (by omega), if_neg (by omega), if_pos (by omega), hd1]

theorem cipherResult_of_two_words_le (hd8 : 8 ≤ data.length) (hk : 16 ≤ key.length) :
    cipherResult rounds cfg data key = .ok (bytesLe (rounds (keyWords key) (wordsLe data))) := by
  rw [cipherResult, if_neg (by omega), if_neg (by omega), if_neg (by omega), if_neg (by omega)]

/-- The key length test and the key words see the same of a longer key (R78). -/
theorem cipherResult_append_key (hk : 16 ≤ key.length) (extra : List Byte) :
    cipherResult rounds cfg data (key ++ extra) = cipherResult rounds cfg data key := by
  have hlen : ¬(key ++ extra).length < 16 := by rw [List.length_append]; omega
  simp only [cipherResult, keyWords_append hk, if_neg hlen, if_neg (Nat.not_lt.2 hk)]

/-- Rounds that agree on the words of the input under every key give the same result. -/
theorem cipherResult_congr {cfg' : Config} (hd1 : cfg.xxteaD1 = cfg'.xxteaD1)
    (h : ∀ g, enc g (wordsLe data) = dec g (wordsLe data)) : cipherResult enc cfg data key = cipherResult dec cfg' data key := by
  simp only [cipherResult, hd1, h]

/-- The round trip (R79) for any two rounds of which the second undoes the first: the result of the first command is no longer than its
input, and the second makes of it the input without its remainder. -/
theorem cipherResult_roundTrip (hlen : ∀ g w, (enc g w).length = w.length)
    (hinv : ∀ g w, 2 ≤ w.length → dec g (enc g w) = w) (hk : 16 ≤ key.length)
    (hd : data.length % 4 = 0 ∨ 4 ≤ data.length) (hd1 : cfg.xxteaD1 = .identity ∨ data.length / 4 ≠ 1) :
    ∃ out, cipherResult enc cfg data key = .ok out ∧ out.length ≤ data.length ∧
      cipherResult dec cfg out key = .ok (data.take (data.length - data.length % 4)) := by
  obtain h0 | h4 | h8 : data = [] ∨ 4 ≤ data.length ∧ data.length < 8 ∨ 8 ≤ data.length := by
    rw [← List.length_eq_zero_iff]; omega
  case inl =>
    subst h0
    exact ⟨[], cipherResult_of_no_byte rfl, le_rfl, cipherResult_of_no_byte rfl⟩
  case inr.inl =>
    obtain ⟨h4, h8⟩ := h4
    have hid : cfg.xxteaD1 = .identity := hd1.resolve_right (by omega)
    have htake : (data.take 4).length = 4 := List.length_take_of_le h4
    refine ⟨data.take 4, cipherResult_of_one_word h4 h8 hk hid, by omega, ?_⟩
    rw [cipherResult_of_one_word (by omega) (by omega) hk hid, List.take_take, Nat.min_self,
      show data.length - data.length % 4 = 4 by omega]
  case inr.inr =>
    have hwords : (wordsLe data).length = data.length / 4 := wordsLe_length data
    have hout : (bytesLe (enc (keyWords key) (wordsLe data))).length = 4 * (data.length / 4) := by
      rw [bytesLe_length, hlen, hwords]
    refine ⟨_, cipherResult_of_two_words_le h8 hk, by omega, ?_⟩
    rw [cipherResult_of_two_words_le (by omega) hk, wordsLe_bytesLe, hinv _ _ (by omega), bytesLe_wordsLe]

end

/-! ## Both commands at once -/

section
variable {s t : State} {rounds enc dec : Config → List Word → List Word → List Word}

/-- A cipher command by its rounds: `XXTEA_ENC` and `XXTEA_DEC` differ in nothing else (R73, R74). -/
def execCipher (rounds : Config → List Word → List Word → List Word) (s : State) : StepOutcome :=
  finishOut (cipherResult (rounds s.cfg) s.cfg s.inBuf s.keyBuf) s

theorem exec_xxteaEnc_eq_execCipher (s : State) : exec .xxteaEnc s = execCipher encryptWords s := exec_xxteaEnc s

theorem exec_xxteaDec_eq_execCipher (s : State) : exec .xxteaDec s = execCipher decryptWords s := exec_xxteaDec s

theorem execCipher_of_ok {out : List Byte} (h : cipherResult (rounds s.cfg) s.cfg s.inBuf s.keyBuf = .ok out)
    (hfit : s.cfg.fits out.length = true) : execCipher rounds s = .next (complete (s.setOut out)) := by
  rw [execCipher, h, finishOut_ok s hfit]

theorem execCipher_of_error {c : Cause} (h : cipherResult (rounds s.cfg) s.cfg s.inBuf s.keyBuf = .error c) :
    execCipher rounds s = .next (takeFault c s) := by
  rw [execCipher, h]; rfl

/-- What fits the input fits a result that is no longer (R25). -/
theorem fits_of_le_inBuf {n : Nat} (hwf : Memory.wf s = true) (h : n ≤ s.inBuf.length) : s.cfg.fits n = true :=
  Config.fits_mono ((Memory.wf_iff s).1 hwf).1 h

theorem execCipher_of_no_byte (h : s.inBuf = []) : execCipher rounds s = .next (complete (s.setOut [])) :=
  execCipher_of_ok (cipherResult_of_no_byte h) (Config.fits_zero _)

theorem execCipher_of_short_key (hin : s.inBuf ≠ []) (hk : s.keyBuf.length < 16) :
    execCipher rounds s = .next (takeFault .keyTooShort s) :=
  execCipher_of_error (cipherResult_of_short_key (List.length_pos_of_ne_nil hin) hk)

theorem execCipher_of_no_word (h1 : 1 ≤ s.inBuf.length) (h3 : s.inBuf.length ≤ 3) (hk : 16 ≤ s.keyBuf.length) :
    execCipher rounds s = .next (takeFault .zeroWords s) :=
  execCipher_of_error (cipherResult_of_no_word h1 (by omega) hk)

theorem execCipher_of_one_word (hwf : Memory.wf s = true) (h4 : 4 ≤ s.inBuf.length) (h7 : s.inBuf.length ≤ 7)
    (hk : 16 ≤ s.keyBuf.length) (hd1 : s.cfg.xxteaD1 = .identity) :
    execCipher rounds s = .next (complete (s.setOut (s.inBuf.take 4))) :=
  execCipher_of_ok (cipherResult_of_one_word h4 (by omega) hk hd1) (fits_of_le_inBuf hwf (List.length_take_le' 4 _))

theorem execCipher_of_one_word_fault (h4 : 4 ≤ s.inBuf.length) (h7 : s.inBuf.length ≤ 7) (hk : 16 ≤ s.keyBuf.length)
    (hd1 : s.cfg.xxteaD1 = .fault) : execCipher rounds s = .next (takeFault .zeroWords s) :=
  execCipher_of_error (cipherResult_of_one_word_fault h4 (by omega) hk hd1)

/-- From two words on the result is as long as the whole words of the input, and its words are those after the rounds (R70, R81). -/
theorem execCipher_of_two_words_le (hwf : Memory.wf s = true) (h8 : 8 ≤ s.inBuf.length) (hk : 16 ≤ s.keyBuf.length)
    (hlen : ∀ g w, (rounds s.cfg g w).length = w.length) :
    ∃ out, execCipher rounds s = .next (complete (s.setOut out)) ∧ out.length = 4 * (s.inBuf.length / 4) ∧
      wordsLe out = rounds s.cfg (wordsLe (s.keyBuf.take 16)) (wordsLe s.inBuf) := by
  have hout : (bytesLe (rounds s.cfg (keyWords s.keyBuf) (wordsLe s.inBuf))).length = 4 * (s.inBuf.length / 4) := by
    rw [bytesLe_length, hlen, wordsLe_length]
  exact ⟨_, execCipher_of_ok (cipherResult_of_two_words_le h8 hk) (fits_of_le_inBuf hwf (by omega)), hout, wordsLe_bytesLe _⟩

/-- A command that does not write `KEY` ends in the same way with another `KEY` when its result is the same. -/
theorem finishOut_setKey {r : Except Cause (List Byte)} (h : finishOut r s = .next t) (key : List Byte) :
    finishOut r (s.setKey key) = .next (t.setKey key) := by
  obtain ⟨c, rfl, rfl⟩ | ⟨v, rfl, hfit, rfl⟩ | ⟨v, rfl, hfit, rfl⟩ := (finishOut_next s).1 h
  · exact (finishOut_next _).2 (.inl ⟨c, rfl, rfl⟩)
  · exact (finishOut_next _).2 (.inr (.inl ⟨v, rfl, hfit, rfl⟩))
  · exact (finishOut_next _).2 (.inr (.inr ⟨v, rfl, hfit, rfl⟩))

/-- Bytes of `KEY` from 16 on change nothing but `KEY` itself (R78). -/
theorem execCipher_append_key (hk : 16 ≤ s.keyBuf.length) (extra : List Byte) (h : execCipher rounds s = .next t) :
    execCipher rounds (s.setKey (s.keyBuf ++ extra)) = .next (t.setKey (s.keyBuf ++ extra)) := by
  rw [execCipher, State.setKey_cfg, State.setKey_inBuf, State.setKey_keyBuf, cipherResult_append_key hk]
  exact finishOut_setKey h _

/-- The round trip on the machine (R79): the second command finds in `IN` the first one's result, and in `KEY` the same key. -/
theorem execCipher_roundTrip (hlen : ∀ g w, (enc s.cfg g w).length = w.length)
    (hinv : ∀ g w, 2 ≤ w.length → dec s.cfg g (enc s.cfg g w) = w) (hwf : Memory.wf s = true) (hk : 16 ≤ s.keyBuf.length)
    (hd : s.inBuf.length % 4 = 0 ∨ 4 ≤ s.inBuf.length) (hd1 : s.cfg.xxteaD1 = .identity ∨ s.inBuf.length / 4 ≠ 1) :
    ∃ t u, execCipher enc s = .next t ∧ execCipher dec (t.setIn t.outBuf) = .next u ∧ u.code = 0#8 ∧
      u.outBuf = s.inBuf.take (s.inBuf.length - s.inBuf.length % 4) := by
  obtain ⟨out, hfirst, hle, hsecond⟩ := cipherResult_roundTrip hlen hinv hk hd hd1
  exact ⟨_, _, execCipher_of_ok hfirst (fits_of_le_inBuf hwf hle),
    execCipher_of_ok (s := (complete (s.setOut out)).setIn out) hsecond
      (fits_of_le_inBuf (s := s) hwf (List.length_take_le' _ _)), rfl, rfl⟩

end

/-! ## The statements -/

/-- Settles O24: the accumulated sums are the multiples of `DELTA`, forward and backward. -/
theorem roundsSweepWithMultiplesOfDelta : Obligations.RoundsSweepWithMultiplesOfDelta := by
  unfold Obligations.RoundsSweepWithMultiplesOfDelta
  exact fun cfg g s => ⟨encryptWords_eq_foldl cfg g s, decryptWords_eq_foldl cfg g s⟩

/-- Settles O56: the forward sweep position by position, with the neighbours that stand in the array when each has its turn. The
backward sweep is what a forward sweep leads back from, so its clause is the forward clause solved for the other word. -/
theorem sweepMixesEachWordWithItsNeighbours : Obligations.SweepMixesEachWordWithItsNeighbours := by
  unfold Obligations.SweepMixesEachWordWithItsNeighbours
  intro cfg g s sum hs shr formula mixOf
  have hmix : ∀ nxt prv p, mixOf nxt prv p = mixOfNeighbours cfg g sum nxt prv p := by
    intro nxt prv p
    simp only [mixOf, formula, shr, ← shiftRight_eq_ite, ← mix_sumIndex, mixOfNeighbours]
    cases cfg.xxteaYZ <;> rfl
  have hforward : ∀ w : List Word, 2 ≤ w.length → ∀ p, p < w.length →
      (encSweep cfg g sum w).getD p 0#32 = w.getD p 0#32 +
        mixOf (if p + 1 = w.length then (encSweep cfg g sum w).getD 0 0#32 else w.getD (p + 1) 0#32)
          (if p = 0 then w.getD (w.length - 1) 0#32 else (encSweep cfg g sum w).getD (p - 1) 0#32) p := by
    intro w hw p hp
    rw [getD_encSweep hp, nextWord_encSweepUpTo hw hp, prevWord_encSweepUpTo hp, hmix]
  constructor
  · rintro w rfl
    exact ⟨encSweep_length cfg g sum s, hforward s hs⟩
  · rintro w rfl
    have hlen : (decSweep cfg g sum s).length = s.length := decSweep_length cfg g sum s
    refine ⟨hlen, fun p hp => ?_⟩
    have h := hforward (decSweep cfg g sum s) (by omega) p (by omega)
    rw [encSweep_decSweep cfg g sum hs, hlen] at h
    exact (BitVec.sub_eq_iff_eq_add.2 h).symm

/-- Settles O25: the rounds of the two commands undo each other, and what the commands do around them keeps the words. -/
theorem cipherRoundTrip : Obligations.CipherRoundTrip := by
  unfold Obligations.CipherRoundTrip
  intro s hwf hk hd hd1
  simp only [exec_xxteaEnc_eq_execCipher, exec_xxteaDec_eq_execCipher]
  constructor
  · exact execCipher_roundTrip (encryptWords_length s.cfg) (fun g _ hw => decryptWords_encryptWords s.cfg g hw) hwf hk hd hd1
  · exact execCipher_roundTrip (decryptWords_length s.cfg) (fun g _ hw => encryptWords_decryptWords s.cfg g hw) hwf hk hd hd1

/-- Settles O26: of two words the neighbours are the same word, and `swapped` is R71's formula with `y` and `z` exchanged. -/
theorem neighbourOrderIsStandardWhenSwapped : Obligations.NeighbourOrderIsStandardWhenSwapped := by
  unfold Obligations.NeighbourOrderIsStandardWhenSwapped
  constructor
  · intro cfg data key hd
    have hwords : (wordsLe data).length = 2 := (wordsLe_length data).trans hd
    constructor
    · exact cipherResult_congr rfl fun g =>
        (encryptWords_of_two_words cfg g .literal hwords).trans (encryptWords_of_two_words cfg g .swapped hwords).symm
    · exact cipherResult_congr rfl fun g =>
        (decryptWords_of_two_words cfg g .literal hwords).trans (decryptWords_of_two_words cfg g .swapped hwords).symm
  · intro cfg g s sum y z p hyz hshr _ hy hz
    have hnext : nextWord s p = y := by rw [nextWord, List.getD_eq_getElem?_getD, hy, Option.getD_some]
    have hprev : prevWord s p = z := by rw [prevWord, List.getD_eq_getElem?_getD, hz, Option.getD_some]
    rw [mixAt_eq_mixOfNeighbours, hnext, hprev, mixOfNeighbours, hyz, hshr]
    exact mix_sumIndex g sum .logical z y p

/-- Settles O20: the key length is tested before the words are counted, and only `KEY[0..16)` is read. -/
theorem cipherChecksTheKeyLength : Obligations.CipherChecksTheKeyLength := by
  unfold Obligations.CipherChecksTheKeyLength
  simp only [exec_xxteaEnc_eq_execCipher, exec_xxteaDec_eq_execCipher]
  exact ⟨fun s hin hk => ⟨execCipher_of_short_key hin hk, execCipher_of_short_key hin hk⟩,
    fun s t extra hk => ⟨execCipher_append_key hk extra, execCipher_append_key hk extra⟩⟩

/-- Settles O23: the rounds of both commands keep the number of words. -/
theorem cipherTransformsTwoOrMoreWords : Obligations.CipherTransformsTwoOrMoreWords := by
  unfold Obligations.CipherTransformsTwoOrMoreWords
  intro s hwf h8 hk
  simp only [exec_xxteaEnc_eq_execCipher, exec_xxteaDec_eq_execCipher]
  exact ⟨execCipher_of_two_words_le hwf h8 hk (encryptWords_length s.cfg),
    execCipher_of_two_words_le hwf h8 hk (decryptWords_length s.cfg)⟩

/-- Settles O19: the empty result fits every capacity. -/
theorem cipherOfEmptyInputIsEmpty : Obligations.CipherOfEmptyInputIsEmpty := by
  unfold Obligations.CipherOfEmptyInputIsEmpty
  simp only [exec_xxteaEnc_eq_execCipher, exec_xxteaDec_eq_execCipher]
  exact fun s h => ⟨execCipher_of_no_byte h, execCipher_of_no_byte h⟩

/-- Settles O21: one to three bytes make no word. -/
theorem cipherOfNoWordFaults : Obligations.CipherOfNoWordFaults := by
  unfold Obligations.CipherOfNoWordFaults
  simp only [exec_xxteaEnc_eq_execCipher, exec_xxteaDec_eq_execCipher]
  exact fun s h1 h3 hk => ⟨execCipher_of_no_word h1 h3 hk, execCipher_of_no_word h1 h3 hk⟩

/-- Settles O22: one word never reaches the rounds. -/
theorem cipherOfOneWord : Obligations.CipherOfOneWord := by
  unfold Obligations.CipherOfOneWord
  simp only [exec_xxteaEnc_eq_execCipher, exec_xxteaDec_eq_execCipher]
  intro s hwf h4 h7 hk
  constructor
  · exact fun hid => ⟨execCipher_of_one_word hwf h4 h7 hk hid, execCipher_of_one_word hwf h4 h7 hk hid⟩
  · exact fun hfault => ⟨execCipher_of_one_word_fault h4 h7 hk hfault, execCipher_of_one_word_fault h4 h7 hk hfault⟩

end Sys2Proof.Machine
end

section
/-! SUPPORT. The checksum (42_crc32.md R90 to R92): the shift steps are linear over XOR, so in the eight steps of a byte the bits above
the low byte only move down; what `CRC32` answers; and the word that `PARSE_U32LE` reads of four bytes. -/

namespace Sys2Proof.Machine

/-! ## The shift steps -/

section
variable {r : Word} {n : Nat}

theorem crcShift_xor (a b : Word) : crcShift (a ^^^ b) = crcShift a ^^^ crcShift b := by
  unfold crcShift
  rw [BitVec.getLsbD_xor, BitVec.ushiftRight_xor_distrib]
  cases a.getLsbD 0 <;> cases b.getLsbD 0
  case false.false => rfl
  case false.true => exact BitVec.xor_assoc ..
  case true.false =>
    change a >>> 1 ^^^ b >>> 1 ^^^ crcPolynomial = a >>> 1 ^^^ crcPolynomial ^^^ b >>> 1
    ac_rfl
  case true.true =>
    calc a >>> 1 ^^^ b >>> 1
      _ = a >>> 1 ^^^ b >>> 1 ^^^ (crcPolynomial ^^^ crcPolynomial) := by rw [BitVec.xor_self, BitVec.xor_zero]
      _ = (a >>> 1 ^^^ crcPolynomial) ^^^ (b >>> 1 ^^^ crcPolynomial) := by ac_rfl

theorem crcShifts_xor (n : Nat) (a b : Word) : crcShifts n (a ^^^ b) = crcShifts n a ^^^ crcShifts n b := by
  induction n generalizing a b with
  | zero => rfl
  | succ n ih => rw [crcShifts, crcShift_xor, ih]; rfl

theorem crcShift_of_low_zero (h : r.getLsbD 0 = false) : crcShift r = r >>> 1 := by
  rw [crcShift, h]; rfl

/-- While only zeros leave the word, the polynomial is never added. -/
theorem crcShifts_of_low_zero (h : ∀ i < n, r.getLsbD i = false) : crcShifts n r = r >>> n := by
  induction n generalizing r with
  | zero => exact (BitVec.ushiftRight_zero r).symm
  | succ n ih =>
    have hshift : ∀ i < n, (r >>> 1).getLsbD i = false := fun i hi => by
      rw [BitVec.getLsbD_ushiftRight]; exact h _ (by omega)
    rw [crcShifts, crcShift_of_low_zero (h 0 n.succ_pos), ih hshift, ← BitVec.shiftRight_add, Nat.add_comm]

theorem getLsbD_byteMask : ∀ i < 8, (0xFF#32).getLsbD i = true := by decide

/-- `r ^^^ (r &&& 0xFF#32)` is `r` with its low byte cleared. -/
theorem getLsbD_clearLowByte (r : Word) : ∀ i < 8, (r ^^^ (r &&& 0xFF#32)).getLsbD i = false := by
  intro i hi
  rw [BitVec.getLsbD_xor, BitVec.getLsbD_and, getLsbD_byteMask i hi, Bool.and_true, Bool.xor_self]

theorem clearLowByte_ushiftRight (r : Word) : (r ^^^ (r &&& 0xFF#32)) >>> 8 = r >>> 8 := by
  have hmask : 0xFF#32 >>> 8 = 0#32 := by decide
  rw [BitVec.ushiftRight_xor_distrib, BitVec.ushiftRight_and_distrib, hmask, BitVec.and_zero, BitVec.xor_zero]

/-- The eight steps of a byte (R90): what stands above the low byte moves down, and the low byte adds its own remainder. -/
theorem crcShifts_eight (r : Word) : crcShifts 8 r = (r >>> 8) ^^^ crcShifts 8 (r &&& 0xFF#32) := by
  have hsplit : r = (r ^^^ (r &&& 0xFF#32)) ^^^ (r &&& 0xFF#32) := by
    rw [BitVec.xor_assoc, BitVec.xor_self, BitVec.xor_zero]
  calc crcShifts 8 r
    _ = crcShifts 8 (r ^^^ (r &&& 0xFF#32)) ^^^ crcShifts 8 (r &&& 0xFF#32) := by rw [← crcShifts_xor, ← hsplit]
    _ = (r >>> 8) ^^^ crcShifts 8 (r &&& 0xFF#32) := by
      rw [crcShifts_of_low_zero (getLsbD_clearLowByte r), clearLowByte_ushiftRight]

/-- A byte reaches only the low byte of the remainder. -/
theorem xor_byte_ushiftRight (r : Word) (v : Byte) : (r ^^^ v.setWidth 32) >>> 8 = r >>> 8 := by
  have hv : (v.setWidth 32) >>> 8 = 0#32 := by
    ext i hi
    simp
  rw [BitVec.ushiftRight_xor_distrib, hv, BitVec.xor_zero]

theorem crcByte_eq_table (r : Word) (v : Byte) :
    crcByte r v = (r >>> 8) ^^^ crcShifts 8 ((r ^^^ v.setWidth 32) &&& 0xFF#32) := by
  rw [crcByte, crcShifts_eight, xor_byte_ushiftRight]

end

/-! ## The byte orders of a word -/

theorem bytesBe32_eq_reorderGroups (c : Word) : bytesBe32 c = reorderGroups (bytesLe32 c) := rfl

theorem reorderGroups_bytesBe32 (c : Word) : reorderGroups (bytesBe32 c) = bytesLe32 c := rfl

theorem wordAt_bytesLe32 (c : Word) : wordAt (bytesLe32 c) 0 = c := le32_bytes_of_word c

/-- Parsed little-endian, the bytes of a word from the most significant on give the byte-swapped word (R92). -/
theorem bytesLe32_wordAt_bytesBe32 (c : Word) : bytesLe32 (wordAt (bytesBe32 c) 0) = (bytesLe32 c).reverse :=
  bytesLe32_le32 ..

/-! ## The commands -/

section
variable {s t : State}

/-- A command for `OUT` that shows the code of success has replaced `OUT` by its result, which fitted (R213, R215). -/
theorem finishOut_succeeds {r : Except Cause (List Byte)} (h : finishOut r s = .next t) (hcode : t.code = 0#8) :
    ∃ v, r = .ok v ∧ s.cfg.fits v.length = true ∧ t = complete (s.setOut v) := by
  obtain ⟨c, -, rfl⟩ | ⟨v, -, -, rfl⟩ | hok := (finishOut_next s).1 h
  · exact absurd hcode (causeCode_ne_ok c)
  · exact absurd hcode (causeCode_ne_ok .overflow)
  · exact hok

theorem finishOut_overflow {v : List Byte} (h : s.cfg.fits v.length = false) :
    finishOut (.ok v) s = .next (takeFault .overflow s) :=
  (finishOut_next s).2 (.inr (.inl ⟨v, rfl, h, rfl⟩))

theorem exec_crc32_of_fits (h : s.cfg.fits 4 = true) :
    exec .crc32 s = .next (complete (s.setOut (bytesBe32 (crcOf s.inBuf)))) := by
  rw [exec_crc32, finishOut_ok s (by rwa [bytesBe32_length])]

theorem exec_crc32_of_not_fits (h : s.cfg.fits 4 = false) : exec .crc32 s = .next (takeFault .overflow s) := by
  rw [exec_crc32, finishOut_overflow (by rwa [bytesBe32_length])]

theorem exec_crc32_succeeds (h : exec .crc32 s = .next t) (hcode : t.code = 0#8) :
    s.cfg.fits 4 = true ∧ t = complete (s.setOut (bytesBe32 (crcOf s.inBuf))) := by
  obtain ⟨v, hv, hfit, rfl⟩ := finishOut_succeeds (exec_crc32 s ▸ h) hcode
  cases hv
  exact ⟨hfit, rfl⟩

theorem exec_reorder_of_fits (h : s.cfg.fits s.inBuf.length = true) :
    exec .reorder s = .next (complete (s.setOut (reorderGroups s.inBuf))) := by
  rw [exec_reorder, finishOut_ok s (by rwa [reorderGroups_length])]

/-- `REORDER` of the most significant byte first is the least significant byte first (R92). -/
theorem exec_reorder_of_bytesBe32 {c : Word} (hin : s.inBuf = bytesBe32 c) (h : s.cfg.fits 4 = true) :
    exec .reorder s = .next (complete (s.setOut (bytesLe32 c))) := by
  rw [exec_reorder_of_fits (by rwa [hin, bytesBe32_length]), hin, reorderGroups_bytesBe32]

theorem exec_parseU32le_of_inRange (h : s.offset.toNat + 4 ≤ s.inBuf.length) :
    exec .parseU32le s = .next (complete (s.setValue (wordAt s.inBuf s.offset.toNat))) := by
  have hrange : offsetInRange s = true := decide_eq_true h
  rw [exec_parseU32le, parseResult, if_pos hrange]
  rfl

/-- Four bytes handed over in `IN` are parsed at offset 0 (R140). -/
theorem exec_parseU32le_at_zero (s : State) {b : List Byte} (h : b.length = 4) :
    exec .parseU32le ((s.setIn b).setOffset 0#32) =
      .next (complete (((s.setIn b).setOffset 0#32).setValue (wordAt b 0))) :=
  exec_parseU32le_of_inRange (s := (s.setIn b).setOffset 0#32) h.ge

end

/-! ## The statements -/

/-- Settles O28: read back, the four bytes give the swapped word; `REORDER` turns them into the little-endian bytes of the checksum. -/
theorem checksumByteOrder : Obligations.ChecksumByteOrder := by
  unfold Obligations.ChecksumByteOrder
  refine ⟨bytesBe32_eq_reorderGroups, fun s t h hcode => ?_⟩
  obtain ⟨hfit, rfl⟩ := exec_crc32_succeeds h hcode
  constructor
  · exact ⟨_, exec_parseU32le_at_zero _ (bytesBe32_length _), rfl, bytesLe32_wordAt_bytesBe32 _⟩
  · exact ⟨_, _, exec_reorder_of_bytesBe32 rfl hfit, exec_parseU32le_at_zero _ (bytesLe32_length _), rfl, wordAt_bytesLe32 _⟩

/-- Settles O29: the two forms take the same step for each byte. -/
theorem checksumEqualsTableDrivenForm : Obligations.ChecksumEqualsTableDrivenForm := by
  unfold Obligations.ChecksumEqualsTableDrivenForm
  intro data
  simp only [crcOf, ← crcByte_eq_table]

/-- Settles O27: the result is four bytes whatever `IN` holds, so `Overflow` is a matter of the capacity alone. -/
theorem crc32WritesTheChecksum : Obligations.Crc32WritesTheChecksum := by
  unfold Obligations.Crc32WritesTheChecksum
  exact ⟨fun _ hfit => exec_crc32_of_fits hfit, fun _ hfit => exec_crc32_of_not_fits hfit, by decide +kernel, by decide⟩

end Sys2Proof.Machine
end

section
/-! SUPPORT. The bit reader by its position (43_deflate.md R107, R109): what `bits(n)` reads from any bit of a byte sequence, and the values
that are read whole on a byte boundary. -/

namespace Sys2Proof.Machine

/-! ## One read after another -/

section
variable {α β : Type}

/-- A read, then another from where the first ends, which may depend on the first one's value; malformed where one of them is. -/
def readThen (f : BitReader → Option (α × BitReader)) (g : α → BitReader → Option (β × BitReader)) (r : BitReader) :
    Option (β × BitReader) :=
  (f r).bind fun p => g p.1 p.2

variable {f : BitReader → Option (α × BitReader)} {g : α → BitReader → Option (β × BitReader)} {r r1 : BitReader}

theorem readThen_of_some {v : α} (h : f r = some (v, r1)) : readThen f g r = g v r1 := by
  rw [readThen, h, Option.bind_some]

theorem readThen_eq_some_iff {p : β × BitReader} :
    readThen f g r = some p ↔ ∃ v r1, f r = some (v, r1) ∧ g v r1 = some p := by
  simp only [readThen, Option.bind_eq_some_iff, Prod.exists]

end

section
variable {b : List Byte}

/-! ## The reader at a bit of a byte sequence -/

/-- The reader at bit `n` of a byte sequence (R107: `bitpos = n`). -/
def readerAtBit (b : List Byte) (n : Nat) : BitReader := ⟨b.drop (n / 8), n % 8⟩

theorem readerAtBit_zero (b : List Byte) : readerAtBit b 0 = readerAt b := rfl

/-- `bit()` at bit `n` is `b[n div 8][n mod 8]`, and the reader is then at the next bit (R107). -/
theorem readBit_readerAtBit (b : List Byte) (n : Nat) :
    readBit (readerAtBit b n) = (b[n / 8]?).map fun x => (x.getLsbD (n % 8), readerAtBit b (n + 1)) := by
  by_cases h : n / 8 < b.length
  · rw [readBit, readerAtBit, List.drop_eq_getElem_cons h, List.getElem?_eq_getElem h]
    simp only [Option.map_some, Option.some.injEq, Prod.mk.injEq, true_and]
    by_cases hlast : n % 8 = 7
    · rw [if_pos hlast, readerAtBit, show (n + 1) / 8 = n / 8 + 1 by omega, show (n + 1) % 8 = 0 by omega]
    · rw [if_neg hlast, readerAtBit, show (n + 1) / 8 = n / 8 by omega, show (n + 1) % 8 = n % 8 + 1 by omega,
        List.drop_eq_getElem_cons h]
  · rw [readBit, readerAtBit, List.drop_eq_nil_of_le (by omega), List.getElem?_eq_none (by omega)]
    rfl

/-! ## Several bits -/

theorem readBits_succ (n : Nat) (r : BitReader) :
    readBits (n + 1) r = readThen readBit (fun x => readThen (readBits n) fun v r => some (x.toNat + 2 * v, r)) r := by
  simp only [readBits, readThen]
  grind

/-- The lowest bit of a value, and the bits of the value above it. -/
theorem testBit_toNat_add_two_mul (x : Bool) (v i : Nat) :
    (x.toNat + 2 * v).testBit i = if i = 0 then x else v.testBit (i - 1) := by
  cases i with
  | zero => cases x <;> simp [Nat.testBit_zero]
  | succ i =>
    have hhalf : (x.toNat + 2 * v) / 2 = v := by have := Bool.toNat_le x; omega
    rw [Nat.testBit_succ, hhalf]
    rfl

/-- Where `bits(n)` succeeds, the reader is `n` bits on and bit `i` of the value is the `i`-th bit read (R107). -/
theorem readBits_readerAtBit_some : ∀ {n m v : Nat} {r : BitReader}, readBits n (readerAtBit b m) = some (v, r) →
    r = readerAtBit b (m + n) ∧ v < 2 ^ n ∧ ∀ i < n, v.testBit i = (b.getD ((m + i) / 8) 0#8).getLsbD ((m + i) % 8)
  | 0, m, v, r, h => by
    cases h
    exact ⟨rfl, Nat.one_pos, fun i hi => absurd hi (Nat.not_lt_zero i)⟩
  | n + 1, m, v, r, h => by
    obtain ⟨y, r1, hbit, h⟩ := readThen_eq_some_iff.1 (readBits_succ n _ ▸ h)
    rw [readBit_readerAtBit] at hbit
    obtain ⟨x, hx, hy⟩ := Option.map_eq_some_iff.1 hbit
    cases hy
    obtain ⟨w, r2, hw, hv⟩ := readThen_eq_some_iff.1 h
    cases hv
    obtain ⟨rfl, hlt, hbits⟩ := readBits_readerAtBit_some hw
    refine ⟨by rw [Nat.add_assoc, Nat.add_comm 1 n], ?bound, fun i hi => ?bit⟩
    case bound =>
      have := Bool.toNat_le (x.getLsbD (m % 8))
      rw [Nat.pow_succ]
      omega
    case bit =>
      rw [testBit_toNat_add_two_mul]
      cases i with
      | zero => simp [List.getD_eq_getElem?_getD, hx]
      | succ i => rw [if_neg (by omega), Nat.add_sub_cancel, hbits i (by omega), show m + 1 + i = m + (i + 1) by omega]

/-- `bits(n)` fails exactly where the stream ends before the `n` bits do (R107). -/
theorem readBits_readerAtBit_none : ∀ {n m : Nat}, m ≤ 8 * b.length →
    (readBits n (readerAtBit b m) = none ↔ 8 * b.length < m + n)
  | 0, m, hm => by simp only [readBits, reduceCtorEq, false_iff]; omega
  | n + 1, m, hm => by
    rw [readBits_succ, readThen, readBit_readerAtBit]
    by_cases h : m / 8 < b.length
    · have ih := readBits_readerAtBit_none (n := n) (m := m + 1) (by omega)
      rw [List.getElem?_eq_getElem h]
      simp only [Option.map_some, Option.bind_some, readThen, Option.bind_eq_none_iff, reduceCtorEq, imp_false]
      rw [show m + (n + 1) = m + 1 + n by omega, ← ih, Option.eq_none_iff_forall_ne_some]
    · rw [List.getElem?_eq_none (by omega)]
      simp only [Option.map_none, Option.bind_none, true_iff]
      omega

/-! ## Whole bytes on a byte boundary -/

/-- `bits(m + n)` is `bits(m)` below `bits(n)` (R107). -/
theorem readBits_add : ∀ (m n : Nat) (r : BitReader),
    readBits (m + n) r = readThen (readBits m) (fun v => readThen (readBits n) fun w r => some (v + 2 ^ m * w, r)) r
  | 0, n, r => by
    rw [Nat.zero_add]
    simp [readBits, readThen]
  | m + 1, n, r => by
    rw [Nat.add_right_comm, readBits_succ]
    simp only [readThen, readBits_succ m, readBits_add m n, Option.bind_assoc, Option.bind_some, Nat.pow_succ, Nat.mul_add,
      Nat.add_assoc, Nat.mul_assoc, Nat.mul_left_comm]

/-- On a byte boundary `bits(16)` reads back the two bytes of `le16` (R104, R107). -/
theorem readBits_bytesLe16 {n : Nat} (h : n < 2 ^ 16) (tail : List Byte) :
    readBits 16 (readerAt (bytesLe16 n ++ tail)) = some (n, readerAt tail) := by
  rw [show 16 = 8 + 8 from rfl, readBits_add, bytesLe16, List.cons_append, List.cons_append, List.nil_append,
    readThen_of_some (readBits_byte _ _), readThen_of_some (readBits_byte _ _)]
  simp only [BitVec.toNat_ofNat, Option.some.injEq, Prod.mk.injEq, and_true]
  omega

end

/-! ## The statement -/

/-- Settles O36: the reader at bit 0, followed for `n` bits. -/
theorem bitReaderFollowsTheBitNumbering : Obligations.BitReaderFollowsTheBitNumbering := by
  unfold Obligations.BitReaderFollowsTheBitNumbering
  refine ⟨fun b n v r h => ?reads, fun b n => ?fails⟩
  case reads =>
    rw [← readerAtBit_zero] at h
    obtain ⟨rfl, hlt, hbits⟩ := readBits_readerAtBit_some h
    simp only [Nat.zero_add] at hbits ⊢
    refine ⟨rfl, rfl, hlt, hbits, ?_⟩
    rw [readBit_readerAtBit, Option.map_map]
    rfl
  case fails =>
    rw [← readerAtBit_zero, readBits_readerAtBit_none (Nat.zero_le _), Nat.zero_add]

end Sys2Proof.Machine
end

section
/-! SUPPORT. What the functions of the inflater do with the reader (43_deflate.md R107 to R117), each said once as a chain of reads. From
these equations: a function that accepts reads what is left from its start on and does the same whatever stands after what it read, and more
fuel does not change what a fuelled loop accepts. -/

namespace Sys2Proof.Machine

/-! ## The equations -/

section
variable (r : BitReader) (out : List Byte)

theorem readBytes_succ (n : Nat) :
    readBytes (n + 1) r =
      readThen (readBits 8) (fun v => readThen (readBytes n) fun vs r => some (BitVec.ofNat 8 v :: vs, r)) r := by
  simp only [readBytes, readThen]
  grind

theorem decodeSymbol_cons (lv : CodeLevel) (levels : List CodeLevel) (c : Nat) :
    decodeSymbol (lv :: levels) c r = readThen readBit (fun x r =>
      if lv.first ≤ 2 * c + x.toNat then
        (lv.syms[2 * c + x.toNat - lv.first]?).elim (decodeSymbol levels (2 * c + x.toNat) r) fun sym => some (sym, r)
      else decodeSymbol levels (2 * c + x.toNat) r) r := by
  simp only [decodeSymbol, readThen]
  grind

theorem readExtra_eq (table : List (Nat × Nat)) (i : Nat) :
    readExtra table i r = (table[i]?).elim none fun row => readThen (readBits row.1) (fun v r => some (row.2 + v, r)) r := by
  unfold readExtra readThen
  grind

theorem readCopy_eq (dist : List CodeLevel) (sym : Nat) :
    readCopy dist sym r out =
      readThen (readExtra lengthTable (sym - 257)) (fun len => readThen (decodeSymbol dist 0) fun t =>
        readThen (readExtra distanceTable t) fun d r =>
          if out.length < d then none else some (copyBack d len out, r)) r := by
  unfold readCopy readThen
  grind

theorem inflateBody_succ (lit dist : List CodeLevel) (fuel : Nat) :
    inflateBody lit dist (fuel + 1) r out = readThen (decodeSymbol lit 0) (fun sym r =>
      if sym < 256 then inflateBody lit dist fuel r (BitVec.ofNat 8 sym :: out)
      else if sym = 256 then some (out, r)
      else if sym ≤ 285 then readThen (readCopy dist sym · out) (fun out1 r => inflateBody lit dist fuel r out1) r
      else none) r := by
  unfold readThen
  -- Lean's own equation lemmas of `inflateBody` exceed the recursion limit, so its body is shown by definition.
  change (match decodeSymbol lit 0 r with | none => none | some (sym, r1) => _) = _
  grind

theorem inflateStored_eq :
    inflateStored r out = readThen (readBits 16) (fun len => readThen (readBits 16) fun nlen r =>
      if len ^^^ nlen ≠ 0xFFFF then none
      else readThen (readBytes len) (fun bytes r => some (bytes.reverse ++ out, r)) r) (alignReader r) := by
  unfold inflateStored readThen
  grind

theorem readTriples_succ (n : Nat) :
    readTriples (n + 1) r = readThen (readBits 3) (fun v => readThen (readTriples n) fun vs r => some (v :: vs, r)) r := by
  simp only [readTriples, readThen]
  grind

theorem expandLength_eq (sym : Nat) (before : List Nat) :
    expandLength sym before r =
      if sym ≤ 15 then some ([sym], r)
      else if sym = 16 then before.head?.elim none fun l =>
        readThen (readBits 2) (fun v r => some (List.replicate (3 + v) l, r)) r
      else if sym = 17 then readThen (readBits 3) (fun v r => some (List.replicate (3 + v) 0, r)) r
      else readThen (readBits 7) (fun v r => some (List.replicate (11 + v) 0, r)) r := by
  unfold expandLength readThen
  grind

theorem readLengths_succ (code : List CodeLevel) (total fuel : Nat) (acc : List Nat) :
    readLengths code total (fuel + 1) r acc =
      if acc.length = total then some (acc, r)
      else readThen (decodeSymbol code 0) (fun sym => readThen (expandLength sym acc) fun ls r =>
        if total < acc.length + ls.length then none else readLengths code total fuel r (ls ++ acc)) r := by
  simp only [readLengths, readThen]
  grind

/-- The two codes of a dynamic block in the lengths read, newest first, where they pass the checks of R110 and R112. -/
def checkedCodes (hlit : Nat) (acc : List Nat) : Option DynamicCodes :=
  if (acc.reverse.take hlit).getD 256 0 = 0 then none
  else if litLengthsOk (acc.reverse.take hlit) && distLengthsOk (acc.reverse.drop hlit) then
    some ⟨acc.reverse.take hlit, acc.reverse.drop hlit⟩
  else none

theorem readDynamicLengths_eq (hlit hdist hclen : Nat) :
    readDynamicLengths hlit hdist hclen r =
      if 286 < hlit ∨ 30 < hdist then none
      else readThen (readTriples hclen) (fun vals r =>
        if completeCode (placeCodeLengths vals) then
          readThen (readLengths (codeOf (placeCodeLengths vals)) (hlit + hdist) (hlit + hdist + 1) · [])
            (fun acc r => (checkedCodes hlit acc).elim none fun codes => some (codes, r)) r
        else none) r := by
  unfold readDynamicLengths checkedCodes readThen
  grind

theorem readDynamicHeader_eq :
    readDynamicHeader r = readThen (readBits 5) (fun hl => readThen (readBits 5) fun hd => readThen (readBits 4) fun hc =>
      readDynamicLengths (hl + 257) (hd + 1) (hc + 4)) r := by
  unfold readDynamicHeader readThen
  grind

theorem inflateDynamic_eq :
    inflateDynamic r out = readThen readDynamicHeader (fun codes r =>
      inflateBody (codeOf codes.lit) (codeOf codes.dist) (bitsLeft r) r out) r := by
  unfold inflateDynamic readThen
  grind

theorem inflateBlocks_succ (fuel : Nat) :
    inflateBlocks (fuel + 1) r out = readThen readBit (fun bfinal => readThen (readBits 2) fun btype =>
      readThen (inflateBlock btype · out) fun out1 r =>
        if bfinal then some (out1, r) else inflateBlocks fuel r out1) r := by
  simp only [inflateBlocks, readThen]
  grind

theorem inflateStream_eq_some_iff {b left : List Byte} :
    inflateStream b = some (out, left) ↔
      ∃ acc r, inflateBlocks (bitsLeft (readerAt b)) (readerAt b) [] = some (acc, r) ∧ out = acc.reverse ∧
        left = (alignReader r).rest := by
  unfold inflateStream
  cases inflateBlocks (bitsLeft (readerAt b)) (readerAt b) [] with
  | none => simp
  | some p => simp [Prod.ext_iff, eq_comm (a := out), eq_comm (a := left)]

end

/-! ## Reading from the start of what is left -/

section
variable {α β : Type} {r r1 : BitReader}

/-- The same position in a sequence that goes on after its end. -/
def BitReader.append (r : BitReader) (tail : List Byte) : BitReader := ⟨r.rest ++ tail, r.used⟩

/-- A position inside a byte is inside one that is there. -/
def BitReader.Inside (r : BitReader) : Prop := r.used ≠ 0 → r.rest ≠ []

theorem BitReader.inside_readerAt (b : List Byte) : (readerAt b).Inside := fun h => absurd rfl h

/-- A reading function that takes bytes from the start of what is left and, where it succeeds, does not depend on what follows them. -/
def ReadsPrefix (f : BitReader → Option (α × BitReader)) : Prop :=
  ∀ ⦃r r1 : BitReader⦄ ⦃v : α⦄, r.Inside → f r = some (v, r1) →
    r1.Inside ∧ r1.rest <:+ r.rest ∧ ∀ tail, f (r.append tail) = some (v, r1.append tail)

theorem ReadsPrefix.of_eq {f g : BitReader → Option (α × BitReader)} (h : ∀ r, f r = g r) (hg : ReadsPrefix g) :
    ReadsPrefix f := funext h ▸ hg

theorem ReadsPrefix.pure (v : α) : ReadsPrefix fun r => some (v, r) := by
  intro r r1 w hr h
  cases h
  exact ⟨hr, List.suffix_refl _, fun _ => rfl⟩

theorem ReadsPrefix.fail : ReadsPrefix fun _ => (none : Option (α × BitReader)) := by
  intro r r1 w hr h
  cases h

theorem ReadsPrefix.then {f : BitReader → Option (α × BitReader)} {g : α → BitReader → Option (β × BitReader)}
    (hf : ReadsPrefix f) (hg : ∀ v, ReadsPrefix (g v)) : ReadsPrefix (readThen f g) := by
  intro r r2 w hr h
  obtain ⟨v, r1, hfr, hgr⟩ := readThen_eq_some_iff.1 h
  obtain ⟨hr1, hsuf1, happ1⟩ := hf hr hfr
  obtain ⟨hr2, hsuf2, happ2⟩ := hg v hr1 hgr
  exact ⟨hr2, hsuf2.trans hsuf1, fun tail => (readThen_of_some (happ1 tail)).trans (happ2 tail)⟩

theorem ReadsPrefix.ite (c : Prop) [Decidable c] {f g : BitReader → Option (α × BitReader)} (hf : ReadsPrefix f)
    (hg : ReadsPrefix g) : ReadsPrefix fun r => if c then f r else g r := by
  by_cases h : c
  · simpa only [if_pos h] using hf
  · simpa only [if_neg h] using hg

theorem ReadsPrefix.elim (o : Option β) {f : BitReader → Option (α × BitReader)} {g : β → BitReader → Option (α × BitReader)}
    (hf : ReadsPrefix f) (hg : ∀ v, ReadsPrefix (g v)) : ReadsPrefix fun r => o.elim (f r) fun v => g v r := by
  cases o with
  | none => exact hf
  | some v => exact hg v

/-! ### From the next byte boundary -/

theorem BitReader.Inside.align (r : BitReader) : (alignReader r).Inside := by
  unfold alignReader
  split
  · exact fun h => absurd ‹_› h
  · exact fun h => absurd rfl h

theorem alignReader_suffix (r : BitReader) : (alignReader r).rest <:+ r.rest := by
  unfold alignReader
  split
  · exact List.suffix_refl _
  · exact List.tail_suffix _

theorem alignReader_append (hr : r.Inside) (tail : List Byte) :
    alignReader (r.append tail) = (alignReader r).append tail := by
  by_cases hu : r.used = 0
  · simp [alignReader, BitReader.append, hu]
  · simp [alignReader, BitReader.append, hu, List.tail_append_of_ne_nil (hr hu)]

theorem ReadsPrefix.align {f : BitReader → Option (α × BitReader)} (hf : ReadsPrefix f) :
    ReadsPrefix fun r => f (alignReader r) := by
  intro r r1 v hr h
  obtain ⟨hr1, hsuf, happ⟩ := hf (.align r) h
  refine ⟨hr1, hsuf.trans (alignReader_suffix r), fun tail => ?_⟩
  dsimp only
  rw [alignReader_append hr, happ]

/-! ### With the bits left as fuel -/

theorem bitsLeft_le_append (r : BitReader) (tail : List Byte) : bitsLeft r ≤ bitsLeft (r.append tail) := by
  simp only [bitsLeft, BitReader.append, List.length_append]
  omega

/-- More fuel does not change what a fuelled loop accepts. -/
def KeptByMoreFuel (f : Nat → BitReader → Option (α × BitReader)) : Prop :=
  ∀ ⦃m n : Nat⦄ ⦃r : BitReader⦄ ⦃p : α × BitReader⦄, m ≤ n → f m r = some p → f n r = some p

theorem ReadsPrefix.of_fuel {f : Nat → BitReader → Option (α × BitReader)} (hf : ∀ n, ReadsPrefix (f n)) (hfuel : KeptByMoreFuel f) :
    ReadsPrefix fun r => f (bitsLeft r) r := by
  intro r r1 v hr h
  obtain ⟨hr1, hsuf, happ⟩ := hf _ hr h
  exact ⟨hr1, hsuf, fun tail => hfuel (bitsLeft_le_append r tail) (happ tail)⟩

theorem readThen_eq_some_of_imp {f : BitReader → Option (α × BitReader)} {g g' : α → BitReader → Option (β × BitReader)}
    {p : β × BitReader} (h : ∀ v r1, g v r1 = some p → g' v r1 = some p) (hg : readThen f g r = some p) :
    readThen f g' r = some p := by
  obtain ⟨v, r1, hf, hgv⟩ := readThen_eq_some_iff.1 hg
  exact readThen_eq_some_iff.2 ⟨v, r1, hf, h v r1 hgv⟩

end

/-! ## The functions of the inflater -/

section
variable {lit dist : List CodeLevel} {r : BitReader} {out : List Byte}

theorem readsPrefix_readBit : ReadsPrefix readBit := by
  intro r r1 v hr h
  obtain ⟨rest, used⟩ := r
  cases rest with
  | nil => cases h
  | cons x xs =>
    by_cases hlast : used = 7
    · subst hlast
      cases h
      exact ⟨fun h => absurd rfl h, List.suffix_cons _ _, fun _ => rfl⟩
    · simp only [readBit, if_neg hlast, Option.some.injEq, Prod.mk.injEq] at h
      obtain ⟨rfl, rfl⟩ := h
      exact ⟨fun _ => List.cons_ne_nil _ _, List.suffix_refl _, fun tail => by simp [readBit, BitReader.append, hlast]⟩

theorem readsPrefix_readBits : ∀ n, ReadsPrefix (readBits n)
  | 0 => .pure 0
  | n + 1 =>
    .of_eq (readBits_succ n) <| readsPrefix_readBit.then fun b => (readsPrefix_readBits n).then fun v => .pure (b.toNat + 2 * v)

theorem readsPrefix_readBytes : ∀ n, ReadsPrefix (readBytes n)
  | 0 => .pure []
  | n + 1 =>
    .of_eq (readBytes_succ · n) <| (readsPrefix_readBits 8).then fun v => (readsPrefix_readBytes n).then fun vs =>
      .pure (BitVec.ofNat 8 v :: vs)

theorem readsPrefix_decodeSymbol : ∀ levels c, ReadsPrefix (decodeSymbol levels c)
  | [], _ => .fail
  | lv :: levels, c =>
    .of_eq (decodeSymbol_cons · lv levels c) <| readsPrefix_readBit.then fun b =>
      have next := readsPrefix_decodeSymbol levels (2 * c + b.toNat)
      .ite (lv.first ≤ 2 * c + b.toNat) (.elim (lv.syms[2 * c + b.toNat - lv.first]?) next .pure) next

theorem readsPrefix_readExtra (table : List (Nat × Nat)) (i : Nat) : ReadsPrefix (readExtra table i) :=
  .of_eq (readExtra_eq · table i) <| .elim (table[i]?) .fail fun row =>
    (readsPrefix_readBits row.1).then fun v => .pure (row.2 + v)

theorem readsPrefix_readCopy (sym : Nat) : ReadsPrefix fun r => readCopy dist sym r out :=
  .of_eq (readCopy_eq · out dist sym) <| (readsPrefix_readExtra lengthTable (sym - 257)).then fun len =>
    (readsPrefix_decodeSymbol dist 0).then fun t => (readsPrefix_readExtra distanceTable t).then fun d =>
      .ite (out.length < d) .fail (.pure (copyBack d len out))

theorem readsPrefix_inflateBody : ∀ fuel out, ReadsPrefix fun r => inflateBody lit dist fuel r out
  | 0, _ => .fail
  | fuel + 1, out =>
    .of_eq (inflateBody_succ · out lit dist fuel) <| (readsPrefix_decodeSymbol lit 0).then fun sym =>
      .ite (sym < 256) (readsPrefix_inflateBody fuel _) <| .ite (sym = 256) (.pure out) <| .ite (sym ≤ 285)
        ((readsPrefix_readCopy sym).then fun out1 => readsPrefix_inflateBody fuel out1) .fail

theorem inflateBody_keptByMoreFuel : ∀ out, KeptByMoreFuel fun fuel r => inflateBody lit dist fuel r out := by
  intro out m n r p hmn
  induction m generalizing n r out with
  | zero => intro h; cases h
  | succ m ih =>
    obtain ⟨n, rfl⟩ : ∃ k, n = k + 1 := ⟨n - 1, by omega⟩
    simp only [inflateBody_succ]
    refine readThen_eq_some_of_imp fun sym r1 h => ?_
    split_ifs at h ⊢
    · exact ih _ (by omega) h
    · exact h
    · exact readThen_eq_some_of_imp (fun out1 _ => ih out1 (by omega)) h

theorem readsPrefix_inflateFixed : ReadsPrefix fun r => inflateFixed r out :=
  .of_fuel (fun fuel => readsPrefix_inflateBody fuel out) (inflateBody_keptByMoreFuel out)

theorem readsPrefix_inflateStored : ReadsPrefix fun r => inflateStored r out :=
  .of_eq (inflateStored_eq · out) <| .align <| (readsPrefix_readBits 16).then fun len => (readsPrefix_readBits 16).then fun nlen =>
    .ite (len ^^^ nlen ≠ 0xFFFF) .fail ((readsPrefix_readBytes len).then fun bytes => .pure (bytes.reverse ++ out))

theorem readsPrefix_readTriples : ∀ n, ReadsPrefix (readTriples n)
  | 0 => .pure []
  | n + 1 => .of_eq (readTriples_succ · n) <| (readsPrefix_readBits 3).then fun v => (readsPrefix_readTriples n).then fun vs =>
      .pure (v :: vs)

theorem readsPrefix_expandLength (sym : Nat) (before : List Nat) : ReadsPrefix (expandLength sym before) :=
  .of_eq (expandLength_eq · sym before) <| .ite (sym ≤ 15) (.pure [sym]) <|
    .ite (sym = 16)
      (.elim before.head? .fail fun l => (readsPrefix_readBits 2).then fun v => .pure (List.replicate (3 + v) l)) <|
    .ite (sym = 17) ((readsPrefix_readBits 3).then fun v => .pure (List.replicate (3 + v) 0))
      ((readsPrefix_readBits 7).then fun v => .pure (List.replicate (11 + v) 0))

theorem readsPrefix_readLengths (code : List CodeLevel) (total : Nat) :
    ∀ fuel acc, ReadsPrefix fun r => readLengths code total fuel r acc
  | 0, _ => .fail
  | fuel + 1, acc =>
    .of_eq (readLengths_succ · code total fuel acc) <| .ite (acc.length = total) (.pure acc) <|
      (readsPrefix_decodeSymbol code 0).then fun sym => (readsPrefix_expandLength sym acc).then fun ls =>
        .ite (total < acc.length + ls.length) .fail (readsPrefix_readLengths code total fuel (ls ++ acc))

theorem readsPrefix_readDynamicLengths (hlit hdist hclen : Nat) : ReadsPrefix (readDynamicLengths hlit hdist hclen) :=
  .of_eq (readDynamicLengths_eq · hlit hdist hclen) <| .ite (286 < hlit ∨ 30 < hdist) .fail <|
    (readsPrefix_readTriples hclen).then fun vals => .ite (completeCode (placeCodeLengths vals) = true)
      ((readsPrefix_readLengths _ _ _ []).then fun acc => .elim (checkedCodes hlit acc) .fail .pure) .fail

theorem readsPrefix_readDynamicHeader : ReadsPrefix readDynamicHeader :=
  .of_eq readDynamicHeader_eq <| (readsPrefix_readBits 5).then fun hl => (readsPrefix_readBits 5).then fun hd =>
    (readsPrefix_readBits 4).then fun hc => readsPrefix_readDynamicLengths (hl + 257) (hd + 1) (hc + 4)

theorem readsPrefix_inflateDynamic : ReadsPrefix fun r => inflateDynamic r out :=
  .of_eq (inflateDynamic_eq · out) <| readsPrefix_readDynamicHeader.then fun _ =>
    .of_fuel (fun fuel => readsPrefix_inflateBody fuel out) (inflateBody_keptByMoreFuel out)

theorem readsPrefix_inflateBlock : ∀ btype, ReadsPrefix fun r => inflateBlock btype r out
  | 0 => readsPrefix_inflateStored
  | 1 => readsPrefix_inflateFixed
  | 2 => readsPrefix_inflateDynamic
  | _ + 3 => .fail

theorem readsPrefix_inflateBlocks : ∀ fuel out, ReadsPrefix fun r => inflateBlocks fuel r out
  | 0, _ => .fail
  | fuel + 1, out =>
    .of_eq (inflateBlocks_succ · out fuel) <| readsPrefix_readBit.then fun bfinal => (readsPrefix_readBits 2).then fun btype =>
      (readsPrefix_inflateBlock btype).then fun out1 => .ite (bfinal = true) (.pure out1) (readsPrefix_inflateBlocks fuel out1)

theorem inflateBlocks_keptByMoreFuel : ∀ out, KeptByMoreFuel fun fuel r => inflateBlocks fuel r out := by
  intro out m n r p hmn
  induction m generalizing n r out with
  | zero => intro h; cases h
  | succ m ih =>
    obtain ⟨n, rfl⟩ : ∃ k, n = k + 1 := ⟨n - 1, by omega⟩
    simp only [inflateBlocks_succ]
    refine readThen_eq_some_of_imp fun bfinal _ => readThen_eq_some_of_imp fun btype _ =>
      readThen_eq_some_of_imp fun out1 _ h => ?_
    split_ifs at h ⊢
    · exact h
    · exact ih _ (by omega) h

/-- The stream is at the start of the input; what follows is left over, and so are more bytes after it (R115). -/
theorem inflateStream_readsPrefix {b left : List Byte} (h : inflateStream b = some (out, left)) :
    left <:+ b ∧ ∀ tail, inflateStream (b ++ tail) = some (out, left ++ tail) := by
  obtain ⟨acc, r, hblocks, rfl, rfl⟩ := (inflateStream_eq_some_iff _).1 h
  have hprefix : ReadsPrefix fun r => inflateBlocks (bitsLeft r) r [] :=
    .of_fuel (fun fuel => readsPrefix_inflateBlocks fuel []) (inflateBlocks_keptByMoreFuel [])
  obtain ⟨hr, hsuf, happ⟩ := hprefix (BitReader.inside_readerAt b) hblocks
  refine ⟨(alignReader_suffix r).trans hsuf, fun tail => (inflateStream_eq_some_iff _).2 ⟨acc, r.append tail, happ tail, rfl, ?_⟩⟩
  rw [alignReader_append hr]
  rfl

end

end Sys2Proof.Machine
end

section
/-! SUPPORT. The wrappers of the deflate stream (43_deflate.md R105, R106, R115, R117): what an accepted input is made of, and that bytes
after its end are left over. -/

namespace Sys2Proof.Machine

section
variable {b out left : List Byte}

/-! ## The zlib wrapper -/

theorem zlibHeaderOk_iff {cmf flg : Byte} :
    zlibHeaderOk cmf flg = true ↔ cmf.toNat % 16 = 8 ∧ cmf.toNat / 16 ≤ 7 ∧ (256 * cmf.toNat + flg.toNat) % 31 = 0 ∧
      flg.getLsbD 5 = false := by
  simp [zlibHeaderOk, and_assoc]

/-- What the zlib inflater accepts: two header bytes that pass the checks, a stream, the checksum of its output, what is left over. -/
theorem inflateZlib_eq_some_iff :
    inflateZlib b = some (out, left) ↔
      ∃ cmf flg body a0 a1 a2 a3, b = cmf :: flg :: body ∧ zlibHeaderOk cmf flg = true ∧
        inflateStream body = some (out, a0 :: a1 :: a2 :: a3 :: left) ∧ be32 a0 a1 a2 a3 = adler32 out := by
  unfold inflateZlib
  grind

/-- The bytes that read most significant first as a word are the bytes of that word (R106). -/
theorem bytesBe32_be32 (b0 b1 b2 b3 : Byte) : bytesBe32 (be32 b0 b1 b2 b3) = [b0, b1, b2, b3] := by
  rw [bytesBe32_eq_reorderGroups, be32_eq_le32, bytesLe32_le32]
  rfl

/-- An accepted zlib input is its header, a stream, and the Adler-32 of the output, before what is left over (R105). -/
theorem inflateZlib_wraps (h : inflateZlib b = some (out, left)) :
    ∃ cmf flg mid, b = cmf :: flg :: (mid ++ bytesBe32 (adler32 out) ++ left) ∧ zlibHeaderOk cmf flg = true := by
  obtain ⟨cmf, flg, body, a0, a1, a2, a3, rfl, hheader, hstream, hadler⟩ := inflateZlib_eq_some_iff.1 h
  obtain ⟨⟨mid, rfl⟩, -⟩ := inflateStream_readsPrefix hstream
  refine ⟨cmf, flg, mid, ?_, hheader⟩
  rw [← hadler, bytesBe32_be32, List.append_assoc]
  rfl

theorem inflateZlib_append (h : inflateZlib b = some (out, left)) (tail : List Byte) :
    inflateZlib (b ++ tail) = some (out, left ++ tail) := by
  obtain ⟨cmf, flg, body, a0, a1, a2, a3, rfl, hheader, hstream, hadler⟩ := inflateZlib_eq_some_iff.1 h
  obtain ⟨-, happ⟩ := inflateStream_readsPrefix hstream
  exact inflateZlib_eq_some_iff.2 ⟨cmf, flg, body ++ tail, a0, a1, a2, a3, rfl, hheader, happ tail, hadler⟩

/-! ## The gzip wrapper -/

/-- A skip over the start of a byte sequence that, where it succeeds, does not depend on what follows. -/
def SkipsPrefix (f : List Byte → Option (List Byte)) : Prop :=
  ∀ ⦃b c : List Byte⦄, f b = some c → ∀ tail, f (b ++ tail) = some (c ++ tail)

theorem SkipsPrefix.bind {f g : List Byte → Option (List Byte)} (hf : SkipsPrefix f) (hg : SkipsPrefix g) :
    SkipsPrefix fun b => (f b).bind g := by
  intro b d h tail
  obtain ⟨c, hfb, hgc⟩ := Option.bind_eq_some_iff.1 h
  exact Option.bind_eq_some_iff.2 ⟨c ++ tail, hf hfb tail, hg hgc tail⟩

theorem SkipsPrefix.optional (present : Bool) {f : List Byte → Option (List Byte)} (hf : SkipsPrefix f) :
    SkipsPrefix fun b => if present then f b else some b := by
  cases present with
  | false =>
    intro b c h tail
    cases h
    rfl
  | true => exact hf

theorem skipsPrefix_skipBytes (n : Nat) : SkipsPrefix (skipBytes n) := by
  intro b c h tail
  unfold skipBytes at h ⊢
  split_ifs at h with hlen
  cases h
  rw [if_neg (by rw [List.length_append]; omega), List.drop_append_of_le_length (by omega)]

theorem skipsPrefix_skipString : SkipsPrefix skipString
  | [], c, h, tail => by cases h
  | x :: xs, c, h, tail => by
    rw [List.cons_append]
    unfold skipString at h ⊢
    split_ifs at h ⊢ with hx
    · cases h; rfl
    · exact skipsPrefix_skipString h tail

theorem skipsPrefix_skipExtraField (present : Bool) : SkipsPrefix (skipExtraField present) := by
  intro b c h tail
  unfold skipExtraField at h ⊢
  cases present with
  | false => cases h; rfl
  | true =>
    match b, h with
    | x0 :: x1 :: rest, h => exact skipsPrefix_skipBytes _ h tail

theorem skipsPrefix_skipGzipFields (flg : Byte) : SkipsPrefix (skipGzipFields flg) :=
  (skipsPrefix_skipExtraField _).bind <| (skipsPrefix_skipString.optional _).bind <| (skipsPrefix_skipString.optional _).bind <|
    (skipsPrefix_skipBytes 2).optional _

theorem skipsPrefix_skipGzipHeader : SkipsPrefix skipGzipHeader := by
  intro b c h tail
  match b, h with
  | id1 :: id2 :: cm :: flg :: rest, h =>
    simp only [List.cons_append, skipGzipHeader] at h ⊢
    split_ifs at h ⊢ with hid
    exact ((skipsPrefix_skipBytes 6).bind (skipsPrefix_skipGzipFields flg)) h tail

/-- What the gzip inflater accepts: a header, a stream, the checksum and the length of its output, what is left over (R117). -/
theorem inflateGzip_eq_some_iff :
    inflateGzip b = some (out, left) ↔
      ∃ body c0 c1 c2 c3 l0 l1 l2 l3, skipGzipHeader b = some body ∧
        inflateStream body = some (out, c0 :: c1 :: c2 :: c3 :: l0 :: l1 :: l2 :: l3 :: left) ∧
        le32 c0 c1 c2 c3 = crcOf out ∧ le32 l0 l1 l2 l3 = BitVec.ofNat 32 out.length := by
  unfold inflateGzip
  grind

theorem inflateGzip_append (h : inflateGzip b = some (out, left)) (tail : List Byte) :
    inflateGzip (b ++ tail) = some (out, left ++ tail) := by
  obtain ⟨body, c0, c1, c2, c3, l0, l1, l2, l3, hheader, hstream, hcrc, hlen⟩ := inflateGzip_eq_some_iff.1 h
  obtain ⟨-, happ⟩ := inflateStream_readsPrefix hstream
  exact inflateGzip_eq_some_iff.2
    ⟨body ++ tail, c0, c1, c2, c3, l0, l1, l2, l3, skipsPrefix_skipGzipHeader hheader tail, happ tail, hcrc, hlen⟩

end

/-! ## The statements -/

/-- Settles O34: wrapper by wrapper, since the stream is read from the start of the input. -/
theorem trailingBytesAreIgnored : Obligations.TrailingBytesAreIgnored := by
  unfold Obligations.TrailingBytesAreIgnored
  intro w b out left tail h
  cases w with
  | zlib => exact inflateZlib_append h tail
  | raw =>
    obtain ⟨-, happ⟩ := inflateStream_readsPrefix h
    exact happ tail
  | gzip => exact inflateGzip_append h tail

/-- Settles O35: the checksum stands where the stream ends. -/
theorem acceptedZlibStreamIsWrapped : Obligations.AcceptedZlibStreamIsWrapped := by
  unfold Obligations.AcceptedZlibStreamIsWrapped
  refine ⟨fun b out left h => ?_, by decide, by decide, by decide +kernel⟩
  obtain ⟨cmf, flg, mid, hb, hheader⟩ := inflateZlib_wraps h
  exact ⟨cmf, flg, mid, hb, zlibHeaderOk_iff.1 hheader⟩

end Sys2Proof.Machine
end

section
/-! SUPPORT. The stored-block encoder (43_deflate.md R104): the length of its output, and that the inflater reads its output back (R101,
R109). -/

namespace Sys2Proof.Machine

section
variable {x c : List Byte}

/-! ## Its length -/

@[simp] theorem storedBlock_length (final : Bool) (c : List Byte) : (storedBlock final c).length = c.length + 5 := by
  simp [storedBlock]
  omega

/-- One block for every 65535 bytes begun, and one for no byte. -/
theorem storedBlocksFrom_length : ∀ {n : Nat} {x : List Byte}, x.length ≤ 65535 * (n + 1) →
    (storedBlocksFrom n x).length = x.length + 5 * max 1 ((x.length + 65534) / 65535)
  | 0, x, h => by
    rw [storedBlocksFrom, storedBlock_length]
    omega
  | n + 1, x, h => by
    rw [storedBlocksFrom]
    split_ifs with hlast
    · rw [storedBlock_length]
      omega
    · have hrest : (x.drop 65535).length = x.length - 65535 := List.length_drop
      rw [List.length_append, storedBlock_length, storedBlocksFrom_length (by omega), hrest, List.length_take]
      omega

/-- The chunks before the last one leave a last chunk of at most 65535 bytes. -/
theorem length_le_of_chunks (x : List Byte) : x.length ≤ 65535 * (x.length / 65535 + 1) := by omega

theorem storedBlocks_length (x : List Byte) :
    (storedBlocks x).length = x.length + 5 * max 1 ((x.length + 65534) / 65535) :=
  storedBlocksFrom_length (length_le_of_chunks x)

/-! ## Read back -/

/-- From any position before them, the two lengths and the bytes of a stored block yield the bytes (R109). -/
theorem inflateStored_of_align {r : BitReader} {tail : List Byte} (hc : c.length ≤ 65535)
    (hr : alignReader r = readerAt (bytesLe16 c.length ++ (bytesLe16 (c.length ^^^ 0xFFFF) ++ (c ++ tail)))) (out : List Byte) :
    inflateStored r out = some (c.reverse ++ out, readerAt tail) := by
  have hlen : c.length < 2 ^ 16 := by omega
  have hnlen : c.length ^^^ 0xFFFF < 2 ^ 16 := Nat.xor_lt_two_pow hlen (by decide)
  have hxor : c.length ^^^ (c.length ^^^ 0xFFFF) = 0xFFFF := by rw [← Nat.xor_assoc, Nat.xor_self, Nat.zero_xor]
  rw [inflateStored_eq, hr, readThen_of_some (readBits_bytesLe16 hlen _), readThen_of_some (readBits_bytesLe16 hnlen _),
    if_neg (not_not_intro hxor), readThen_of_some (readBytes_aligned c tail)]

/-- The header byte of a stored block holds `BFINAL` and, above it, `BTYPE` 0 (R104, R108). -/
theorem readBits_storedHeader (final : Bool) (b : List Byte) :
    let header := if final then 0x01#8 else 0x00#8
    readBit (readerAt (header :: b)) = some (final, ⟨header :: b, 1⟩) ∧ readBits 2 ⟨header :: b, 1⟩ = some (0, ⟨header :: b, 3⟩) := by
  cases final <;> simp [readBits, readBit, readerAt]

/-- The inflater reads a stored block and stops after it, or goes on, by the block's first bit (R108). -/
theorem inflateBlocks_storedBlock (hc : c.length ≤ 65535) (final : Bool) (tail out : List Byte) (fuel : Nat) :
    inflateBlocks (fuel + 1) (readerAt (storedBlock final c ++ tail)) out =
      if final then some (c.reverse ++ out, readerAt tail) else inflateBlocks fuel (readerAt tail) (c.reverse ++ out) := by
  rw [inflateBlocks_succ, storedBlock, List.cons_append, List.append_assoc, List.append_assoc]
  generalize hb : bytesLe16 c.length ++ (bytesLe16 (c.length ^^^ 0xFFFF) ++ (c ++ tail)) = b
  have hblock (h : Byte) : inflateBlock 0 ⟨h :: b, 3⟩ out = some (c.reverse ++ out, readerAt tail) :=
    inflateStored_of_align hc (hb ▸ rfl) out
  obtain ⟨hfinal, htype⟩ := readBits_storedHeader final b
  rw [readThen_of_some hfinal, readThen_of_some htype, readThen_of_some (hblock _)]

theorem inflateBlocks_storedBlocksFrom (tail : List Byte) : ∀ {n fuel : Nat} {x : List Byte} (out : List Byte),
    x.length ≤ 65535 * (n + 1) → n < fuel →
      inflateBlocks fuel (readerAt (storedBlocksFrom n x ++ tail)) out = some (x.reverse ++ out, readerAt tail)
  | 0, fuel + 1, x, out, hx, _ => inflateBlocks_storedBlock (by omega) true tail out fuel
  | n + 1, fuel + 1, x, out, hx, hfuel => by
    rw [storedBlocksFrom]
    split_ifs with hlast
    · exact inflateBlocks_storedBlock hlast true tail out fuel
    · rw [List.append_assoc]
      refine (inflateBlocks_storedBlock (List.length_take_le _ _) false _ out fuel).trans ?_
      rw [if_neg Bool.false_ne_true,
        inflateBlocks_storedBlocksFrom tail _ (by rw [List.length_drop]; omega) (by omega : n < fuel),
        ← List.append_assoc, ← List.reverse_append, List.take_append_drop]

theorem inflateStream_storedBlocks (x tail : List Byte) : inflateStream (storedBlocks x ++ tail) = some (x, tail) := by
  have hfuel : x.length / 65535 < bitsLeft (readerAt (storedBlocks x ++ tail)) := by
    simp only [bitsLeft, readerAt, List.length_append, storedBlocks_length]
    omega
  refine (inflateStream_eq_some_iff _).2
    ⟨_, _, inflateBlocks_storedBlocksFrom tail [] (length_le_of_chunks x) hfuel, ?_, rfl⟩
  rw [List.append_nil, List.reverse_reverse]

theorem skipGzipHeader_stored (b : List Byte) : skipGzipHeader (gzipStoredHeader ++ b) = some b := by
  have hsix : skipBytes 6 (0x00#8 :: 0x00#8 :: 0x00#8 :: 0x00#8 :: 0x00#8 :: 0xFF#8 :: b) = some b :=
    if_neg (by simp only [List.length_cons]; omega)
  exact Option.bind_eq_some_iff.2 ⟨b, hsix, rfl⟩

/-- The word of a word's bytes, most significant first (R106). -/
theorem be32_bytes_of_word (c : Word) :
    be32 (c.extractLsb' 24 8) (c.extractLsb' 16 8) (c.extractLsb' 8 8) (c.extractLsb' 0 8) = c := by
  rw [be32_eq_le32, le32_bytes_of_word]

/-- Under every wrapper the stored encoder's output inflates to the input, and no byte is left over (R101 (b)). -/
theorem inflateWrapped_storedEncoder (w : DeflateWrap) (x : List Byte) :
    inflateWrapped w (storedEncoder w x) = some (x, []) := by
  cases w with
  | zlib =>
    exact inflateZlib_eq_some_iff.2
      ⟨0x78#8, 0x01#8, _, _, _, _, _, rfl, by decide, inflateStream_storedBlocks x _, be32_bytes_of_word _⟩
  | raw =>
    have h := inflateStream_storedBlocks x []
    rwa [List.append_nil] at h
  | gzip =>
    have hheader : skipGzipHeader (storedEncoder .gzip x) =
        some (storedBlocks x ++ (bytesLe32 (crcOf x) ++ bytesLe32 (BitVec.ofNat 32 x.length))) := by
      simp only [storedEncoder, List.append_assoc]
      exact skipGzipHeader_stored _
    exact inflateGzip_eq_some_iff.2
      ⟨_, _, _, _, _, _, _, _, _, hheader, inflateStream_storedBlocks x _, le32_bytes_of_word _, le32_bytes_of_word _⟩

/-- What the configured compressor yields meets R101 (b). -/
theorem inflateWrapped_deflateFn (cfg : Config) (x : List Byte) :
    inflateWrapped cfg.deflateWrap (deflateFn cfg x) = some (x, []) := by
  obtain h | ⟨y, -, hy, h⟩ := deflateFn_cases cfg x
  · rw [h]
    exact inflateWrapped_storedEncoder cfg.deflateWrap x
  · rwa [h]

end

/-- A zlib stream of one block with the fixed codes and no symbol but the end of the block: no output, and not what the stored encoder gives
for none. -/
def emptyFixedStream : List Byte := [0x78#8, 0x9C#8, 0x03#8, 0x00#8, 0x00#8, 0x00#8, 0x00#8, 0x01#8]

theorem inflateWrapped_emptyFixedStream : inflateWrapped .zlib emptyFixedStream = some ([], []) := by decide +kernel

/-! ## The commands -/

section
variable {s : State} {out left : List Byte}

theorem exec_deflate_of_fits (h : s.cfg.fits (deflateFn s.cfg s.inBuf).length = true) :
    exec .deflate s = .next (complete (s.setOut (deflateFn s.cfg s.inBuf))) := finishOut_ok s h

theorem exec_deflate_of_not_fits (h : s.cfg.fits (deflateFn s.cfg s.inBuf).length = false) :
    exec .deflate s = .next (takeFault .overflow s) := finishOut_overflow h

theorem inflateResult_of_some {w : DeflateWrap} {b : List Byte} (h : inflateWrapped w b = some (out, left)) :
    inflateResult w b = .ok out := by simp only [inflateResult, h]

theorem inflateResult_of_none {w : DeflateWrap} {b : List Byte} (h : inflateWrapped w b = none) :
    inflateResult w b = .error .malformedStream := by simp only [inflateResult, h]

theorem exec_inflate_of_fits (h : inflateWrapped s.cfg.deflateWrap s.inBuf = some (out, left))
    (hfit : s.cfg.fits out.length = true) : exec .inflate s = .next (complete (s.setOut out)) := by
  rw [exec_inflate, inflateResult_of_some h, finishOut_ok s hfit]

theorem exec_inflate_of_not_fits (h : inflateWrapped s.cfg.deflateWrap s.inBuf = some (out, left))
    (hfit : s.cfg.fits out.length = false) : exec .inflate s = .next (takeFault .overflow s) := by
  rw [exec_inflate, inflateResult_of_some h, finishOut_overflow hfit]

theorem exec_inflate_of_malformed (h : inflateWrapped s.cfg.deflateWrap s.inBuf = none) :
    exec .inflate s = .next (takeFault .malformedStream s) := by
  rw [exec_inflate, inflateResult_of_none h]
  rfl

/-- `DEFLATE`, `IN <- OUT`, `INFLATE`: the second command finds a stream that inflates to the input of the first (R103). -/
theorem exec_inflate_exec_deflate (hin : s.cfg.fits s.inBuf.length = true)
    (hout : s.cfg.fits (deflateFn s.cfg s.inBuf).length = true) :
    ∃ t u, exec .deflate s = .next t ∧ exec .inflate (t.setIn t.outBuf) = .next u ∧ u.code = 0#8 ∧ u.outBuf = s.inBuf := by
  exact ⟨_, _, exec_deflate_of_fits hout,
    exec_inflate_of_fits (s := (complete (s.setOut (deflateFn s.cfg s.inBuf))).setIn (deflateFn s.cfg s.inBuf))
      (inflateWrapped_deflateFn s.cfg s.inBuf) hin, rfl, rfl⟩

end

/-! ## The statements -/

/-- Settles O31: the blocks, and six bytes of header and checksum. -/
theorem storedEncoderLength : Obligations.StoredEncoderLength := by
  unfold Obligations.StoredEncoderLength
  intro x
  simp only [storedEncoder, List.length_append, storedBlocks_length, bytesBe32_length, List.length_cons, List.length_nil]
  omega

/-- Settles O30: the stored encoder meets R101 (b), and so does what is held in its place. -/
theorem deflateOutputInflatesToTheInput : Obligations.DeflateOutputInflatesToTheInput := by
  unfold Obligations.DeflateOutputInflatesToTheInput
  refine ⟨fun cfg fn xs hfn => ?given, fun s =>
    ⟨exec_deflate_of_fits, exec_deflate_of_not_fits, inflateWrapped_deflateFn s.cfg s.inBuf⟩⟩
  case given =>
    have hvalue : ∀ x ∈ xs, deflateFn (withDeflateFn cfg fn xs) x = fn x := fun x hx =>
      deflateFn_of_offered (offeredBytes_withDeflateFn fn hx) (hfn x hx)
    refine ⟨hvalue, fun s hcfg hin => ?_⟩
    rw [exec_deflate, deflateWith, hcfg, hvalue _ hin]

/-- Settles O32: the round trip is R101 (b); the converse fails on the empty output, which a fixed block of no symbol and a stored block both
give. -/
theorem compressionRoundTrip : Obligations.CompressionRoundTrip := by
  unfold Obligations.CompressionRoundTrip
  refine ⟨fun s hin hout => exec_inflate_exec_deflate hin hout, ?converse⟩
  case converse =>
    exact ⟨State.reset.setIn emptyFixedStream, _, _, exec_inflate_of_fits inflateWrapped_emptyFixedStream rfl, rfl,
      exec_deflate_of_fits rfl, rfl, by decide⟩

/-- Settles O33: the three cases of the result. -/
theorem inflateYieldsTheStreamOrFaults : Obligations.InflateYieldsTheStreamOrFaults := by
  unfold Obligations.InflateYieldsTheStreamOrFaults
  exact ⟨fun _ _ _ h => ⟨exec_inflate_of_fits h, exec_inflate_of_not_fits h⟩, fun _ h => exec_inflate_of_malformed h⟩

end Sys2Proof.Machine
end

section
/-! SUPPORT. The pieces of a compressed block (43_deflate.md R110 to R114): the fixed codes, the tables, the copy, and what an accepted header
of a dynamic block says of its codes. -/

namespace Sys2Proof.Machine

/-! ## The copy -/

section
variable {dist : Nat}

@[simp] theorem copyBack_length (dist : Nat) : ∀ (n : Nat) (out : List Byte), (copyBack dist n out).length = out.length + n
  | 0, _ => rfl
  | n + 1, out => by
    rw [copyBack, copyBack_length dist n, List.length_cons]
    omega

/-- A copy leaves the output before it where it was. -/
theorem reverse_prefix_copyBack (dist : Nat) : ∀ (n : Nat) (out : List Byte), out.reverse <+: (copyBack dist n out).reverse
  | 0, _ => List.prefix_refl _
  | n + 1, out => by
    refine List.IsPrefix.trans ?_ (reverse_prefix_copyBack dist n (out.getD (dist - 1) 0#8 :: out))
    rw [List.reverse_cons]
    exact List.prefix_append _ _

/-- The byte that a copy writes first is the first of the last `dist` bytes (R114). -/
theorem reverse_getElem?_sub_dist {out : List Byte} (hd : 1 ≤ dist) (hle : dist ≤ out.length) :
    out.reverse[out.length - dist]? = some (out.getD (dist - 1) 0#8) := by
  rw [List.getElem?_reverse (by omega), show out.length - 1 - (out.length - dist) = dist - 1 by omega,
    List.getD_eq_getElem?_getD, List.getElem?_eq_getElem (by omega), Option.getD_some]

/-- The newest byte of the output is the last in the order of the stream. -/
theorem reverse_cons_getElem?_length (x : Byte) (out : List Byte) : (x :: out).reverse[out.length]? = some x := by
  rw [List.reverse_cons, List.getElem?_append_right (by rw [List.length_reverse]), List.length_reverse, Nat.sub_self]
  rfl

/-- Byte `i` of a copy is byte `i mod dist` of the last `dist` bytes before it (R114): each byte written is one later of them, and after the
last the first byte of the copy itself, which repeats the first of them. -/
theorem copyBack_getElem? (hd : 1 ≤ dist) : ∀ {n i : Nat} {out : List Byte}, dist ≤ out.length → i < n →
    (copyBack dist n out).reverse[out.length + i]? = out.reverse[out.length - dist + i % dist]?
  | n + 1, i, out, hle, hi => by
    have hfirst := reverse_getElem?_sub_dist hd hle
    rw [copyBack]
    generalize out.getD (dist - 1) 0#8 = x at hfirst ⊢
    have hnext := reverse_cons_getElem?_length x out
    cases i with
    | zero =>
      obtain ⟨rest, hrest⟩ := reverse_prefix_copyBack dist n (x :: out)
      rw [Nat.zero_mod, Nat.add_zero, Nat.add_zero, hfirst, ← hrest,
        List.getElem?_append_left (by rw [List.length_reverse, List.length_cons]; omega), hnext]
    | succ i =>
      have ih := copyBack_getElem? hd (n := n) (i := i) (out := x :: out) (by rw [List.length_cons]; omega) (by omega)
      rw [List.length_cons, Nat.add_assoc, Nat.add_comm 1 i] at ih
      have hmod : i % dist < dist := Nat.mod_lt i hd
      rw [ih, ← Nat.mod_add_mod i dist 1]
      by_cases hlast : i % dist + 1 = dist
      · rw [show out.length + 1 - dist + i % dist = out.length by omega, hnext, hlast, Nat.mod_self]
        exact hfirst.symm
      · have hwithin : i % dist + 1 < dist := by omega
        rw [Nat.mod_eq_of_lt hwithin, show out.length + 1 - dist + i % dist = out.length - dist + (i % dist + 1) by omega,
          List.reverse_cons, List.getElem?_append_left (by rw [List.length_reverse]; omega)]

end

/-! ## The header of a dynamic block -/

section
variable {lens before ls acc acc' : List Nat} {r r1 : BitReader} {codes : DynamicCodes}

theorem litLengthsOk_iff :
    litLengthsOk lens = true ↔ kraftSum lens = 2 ^ 15 ∨ lens.filter (fun l => decide (l ≠ 0)) = [1] := by
  simp [litLengthsOk, completeCode, singleUnitCode]

theorem distLengthsOk_iff :
    distLengthsOk lens = true ↔
      kraftSum lens = 2 ^ 15 ∨ lens.filter (fun l => decide (l ≠ 0)) = [1] ∨ ∀ l ∈ lens, l = 0 := by
  simp [distLengthsOk, completeCode, singleUnitCode, emptyCode, or_assoc]

/-- What one code-length symbol stands for is a length up to 15, one of those before it, or zeros (R112). -/
theorem expandLength_le {sym : Nat} (hbefore : ∀ l ∈ before, l ≤ 15) (h : expandLength sym before r = some (ls, r1)) :
    ∀ l ∈ ls, l ≤ 15 := by
  rw [expandLength_eq] at h
  split_ifs at h with hlength hrepeat hzeros
  · cases h
    intro l hl
    rwa [List.mem_singleton.1 hl]
  · cases before with
    | nil => cases h
    | cons last before =>
      rw [List.head?_cons, Option.elim_some] at h
      obtain ⟨v, r2, -, hls⟩ := readThen_eq_some_iff.1 h
      cases hls
      intro l hl
      rw [List.eq_of_mem_replicate hl]
      exact hbefore last List.mem_cons_self
  all_goals
    obtain ⟨v, r2, -, hls⟩ := readThen_eq_some_iff.1 h
    cases hls
    intro l hl
    rw [List.eq_of_mem_replicate hl]
    exact Nat.zero_le 15

/-- Accepted code lengths are as many as asked for, each at most 15 (R112). -/
theorem readLengths_sound {code : List CodeLevel} {total : Nat} : ∀ {fuel : Nat} {r : BitReader} {acc : List Nat},
    (∀ l ∈ acc, l ≤ 15) → readLengths code total fuel r acc = some (acc', r1) → acc'.length = total ∧ ∀ l ∈ acc', l ≤ 15
  | 0, r, acc, _, h => by cases h
  | fuel + 1, r, acc, hacc, h => by
    rw [readLengths_succ] at h
    split_ifs at h with hdone
    · cases h
      exact ⟨hdone, hacc⟩
    · obtain ⟨sym, r2, -, h⟩ := readThen_eq_some_iff.1 h
      obtain ⟨ls, r3, hls, h⟩ := readThen_eq_some_iff.1 h
      split_ifs at h
      exact readLengths_sound (List.forall_mem_append.2 ⟨expandLength_le hacc hls, hacc⟩) h

theorem checkedCodes_eq_some_iff {hlit : Nat} :
    checkedCodes hlit acc = some codes ↔
      codes.lit = acc.reverse.take hlit ∧ codes.dist = acc.reverse.drop hlit ∧ codes.lit.getD 256 0 ≠ 0 ∧
        litLengthsOk codes.lit = true ∧ distLengthsOk codes.dist = true := by
  obtain ⟨lit, dist⟩ := codes
  unfold checkedCodes
  grind

/-- The code lengths of an accepted dynamic block: as many as its header says, up to 15, and two codes that pass the checks of R110 and R112. -/
theorem readDynamicLengths_sound {hlit hdist hclen : Nat} (h : readDynamicLengths hlit hdist hclen r = some (codes, r1)) :
    (hlit ≤ 286 ∧ hdist ≤ 30) ∧ (codes.lit.length = hlit ∧ codes.dist.length = hdist) ∧
      (∀ l ∈ codes.lit ++ codes.dist, l ≤ 15) ∧ codes.lit.getD 256 0 ≠ 0 ∧ litLengthsOk codes.lit = true ∧
        distLengthsOk codes.dist = true := by
  rw [readDynamicLengths_eq] at h
  split_ifs at h with hsizes
  obtain ⟨vals, r2, -, h⟩ := readThen_eq_some_iff.1 h
  split_ifs at h
  obtain ⟨acc, r3, hread, h⟩ := readThen_eq_some_iff.1 h
  obtain ⟨hlen, hle⟩ := readLengths_sound (List.forall_mem_nil _) hread
  cases hcodes : checkedCodes hlit acc with
  | none => rw [hcodes] at h; cases h
  | some codes' =>
    rw [hcodes] at h
    cases h
    obtain ⟨hlit', hdist', hend, hlitOk, hdistOk⟩ := checkedCodes_eq_some_iff.1 hcodes
    refine ⟨by omega, ⟨?_, ?_⟩, ?_, hend, hlitOk, hdistOk⟩
    · rw [hlit', List.length_take, List.length_reverse]
      omega
    · rw [hdist', List.length_drop, List.length_reverse]
      omega
    · rw [hlit', hdist', List.take_append_drop]
      exact fun l hl => hle l (List.mem_reverse.1 hl)

end

/-! ## The statements -/

/-- Settles O38: the length of a copy, what stays in front of it, and its bytes. -/
theorem copyRepeatsTheLastBytes : Obligations.CopyRepeatsTheLastBytes := by
  unfold Obligations.CopyRepeatsTheLastBytes
  intro dist len out hd hle
  refine ⟨copyBack_length dist len out, ?_, fun i hi => copyBack_getElem? hd hle hi⟩
  have hfront := List.prefix_iff_eq_take.1 (reverse_prefix_copyBack dist len out)
  rw [List.length_reverse] at hfront
  exact hfront.symm

/-- Settles O40: the lengths are read to the number that the header gives, and checked. -/
theorem acceptedDynamicHeaderIsSound : Obligations.AcceptedDynamicHeaderIsSound := by
  unfold Obligations.AcceptedDynamicHeaderIsSound
  intro r r1 codes h
  obtain ⟨hl, r2, -, h⟩ := readThen_eq_some_iff.1 (readDynamicHeader_eq r ▸ h)
  obtain ⟨hd, r3, -, h⟩ := readThen_eq_some_iff.1 h
  obtain ⟨hc, r4, -, h⟩ := readThen_eq_some_iff.1 h
  obtain ⟨⟨hlit, hdist⟩, ⟨hlitLen, hdistLen⟩, hle, hend, hlitOk, hdistOk⟩ := readDynamicLengths_sound h
  exact ⟨by omega, by omega, by omega, by omega, hle, hend, litLengthsOk_iff.1 hlitOk, distLengthsOk_iff.1 hdistOk⟩

/-- Settles O37: the construction of R110, run on the two lists of lengths. -/
theorem fixedCodesAreAsListed : Obligations.FixedCodesAreAsListed := by
  unfold Obligations.FixedCodesAreAsListed
  decide +kernel

/-- Settles O57: the two tables, row by row. -/
theorem lengthAndDistanceTables : Obligations.LengthAndDistanceTables := by
  unfold Obligations.LengthAndDistanceTables
  decide +kernel

end Sys2Proof.Machine
end

section
/-! SUPPORT. The host's operations step by step (46_host_pipeline.md R184 to R187, R193, R197): one command after its writes, the framing of a
container's file, and the two halves of the outer layer. -/

namespace Sys2Proof.Machine

/-! ## One command after its writes -/

section
variable {s t u : State} {i : Instr} {writes : List HostAction} {position : PipelinePosition}

theorem runActions_cons_of_next {a : HostAction} (h : perform a s = .next t) (as : List HostAction) :
    runActions (a :: as) s = runActions as t := by simp only [runActions, h]

theorem perform_writeCmd_encode (i : Instr) (s : State) : perform (.writeCmd (encode i)) s = exec i (s.setCmd (encode i)) :=
  issueCommand_of_decode_ok (decode_encode i) s

theorem perform_writeIn_of_fits {b : List Byte} (h : s.cfg.fits b.length = true) : perform (.writeIn b) s = .next (s.setIn b) :=
  hostReplace_of_fits h

theorem perform_writeKey_of_fits {b : List Byte} (h : s.cfg.fits b.length = true) : perform (.writeKey b) s = .next (s.setKey b) :=
  hostReplace_of_fits h

/-- A host command by the state that its writes leave and the state that the command leaves (R190, R248). -/
theorem hostCommand_of_exec (hwrites : runActions writes s = .next t) (hexec : exec i (t.setCmd (encode i)) = .next u) :
    hostCommand writes i position s = if u.code = okCode then .ok u else .error (hostErrorOf position u.code) := by
  apply hostCommand_next
  rw [runActions_append, hwrites]
  exact runActions_cons_of_next ((perform_writeCmd_encode i t).trans hexec) []

theorem hostCommand_completes (hwrites : runActions writes s = .next t)
    (hexec : exec i (t.setCmd (encode i)) = .next (complete u)) : hostCommand writes i position s = .ok (complete u) :=
  (hostCommand_of_exec hwrites hexec).trans (if_pos rfl)

theorem hostCommand_faults {c : Cause} (hwrites : runActions writes s = .next t)
    (hexec : exec i (t.setCmd (encode i)) = .next (takeFault c u)) :
    hostCommand writes i position s = .error (hostErrorOf position (causeCode c)) :=
  (hostCommand_of_exec hwrites hexec).trans (if_neg (causeCode_ne_ok c))

end

/-! ## Framing -/

section
variable {s t : State} {writes : List HostAction} {offset : Nat}

theorem exec_parseU32le_of_outOfRange (h : s.inBuf.length < s.offset.toNat + 4) :
    exec .parseU32le s = .next (takeFault .outOfRange s) := by
  have hrange : offsetInRange s = false := decide_eq_false (by omega)
  rw [exec_parseU32le, parseResult, hrange]
  rfl

theorem runActions_writeOffset (hwrites : runActions writes s = .next t) (v : Word) :
    runActions (writes ++ [.writeOffset v]) s = .next (t.setOffset v) := by
  rw [runActions_append, hwrites]
  rfl

/-- A field inside the file is read, and `IN` and the configuration stay (R197). -/
theorem hostParse_inRange (hwrites : runActions writes s = .next t) (ho : offset < 2 ^ 32) (hr : offset + 4 ≤ t.inBuf.length) :
    ∃ u, hostParse writes offset s = .ok u ∧ u.value = wordAt t.inBuf offset ∧ u.inBuf = t.inBuf := by
  have hoff : (BitVec.ofNat 32 offset).toNat = offset := by rw [BitVec.toNat_ofNat, Nat.mod_eq_of_lt ho]
  have hexec := exec_parseU32le_of_inRange (s := (t.setOffset (BitVec.ofNat 32 offset)).setCmd (encode .parseU32le))
    (by simpa only [State.setCmd_offset, State.setOffset_offset, hoff, State.setCmd_inBuf, State.setOffset_inBuf] using hr)
  refine ⟨_, (if_pos ho).trans (hostCommand_completes (runActions_writeOffset hwrites _) hexec), ?_, rfl⟩
  simp only [complete_value, State.setValue_value, State.setCmd_offset, State.setOffset_offset, hoff, State.setCmd_inBuf,
    State.setOffset_inBuf]

/-- A field past the end of the file is `MalformedContainer`, whether its offset fits `OFFSET` or not (R193; log entry 7). -/
theorem hostParse_outOfRange (hwrites : runActions writes s = .next t) (hr : t.inBuf.length < offset + 4) :
    hostParse writes offset s = .error .malformedContainer := by
  by_cases ho : offset < 2 ^ 32
  · have hoff : (BitVec.ofNat 32 offset).toNat = offset := by rw [BitVec.toNat_ofNat, Nat.mod_eq_of_lt ho]
    have hexec := exec_parseU32le_of_outOfRange (s := (t.setOffset (BitVec.ofNat 32 offset)).setCmd (encode .parseU32le))
      (by simpa only [State.setCmd_offset, State.setOffset_offset, hoff, State.setCmd_inBuf, State.setOffset_inBuf] using hr)
    exact (if_pos ho).trans (hostCommand_faults (runActions_writeOffset hwrites _) hexec)
  · exact if_neg ho

/-- The word whose bytes stand behind others. -/
theorem wordAt_append (b : List Byte) (w : Word) (rest : List Byte) : wordAt (b ++ (bytesLe32 w ++ rest)) b.length = w := by
  simp [wordAt, bytesLe32, le32_bytes_of_word]

theorem containerFile_length (c : Container) : (containerFile c).length = 16 + c.payload.length := by
  simp only [containerFile, List.length_append, bytesLe32_length]
  omega

/-- The payload is what stands between header and trailer (R184). -/
theorem memRead_containerFile (c : Container) :
    memRead (containerFile c) 12 ((containerFile c).length - 16) = c.payload := by
  rw [containerFile_length, Nat.add_sub_cancel_left, memRead, containerFile, List.append_assoc _ c.payload,
    List.drop_left' (by rfl), List.take_left' rfl]

/-- The three sizes in the header of a container's file (R184). -/
theorem wordAt_containerFile_header (c : Container) :
    wordAt (containerFile c) 0 = c.decompressedSize ∧ wordAt (containerFile c) 4 = c.compressedSize ∧
      wordAt (containerFile c) 8 = c.encryptedSize := by
  simp only [containerFile, List.append_assoc]
  refine ⟨wordAt_append [] _ _, wordAt_append (bytesLe32 c.decompressedSize) _ _, ?_⟩
  rw [← List.append_assoc]
  exact wordAt_append (bytesLe32 c.decompressedSize ++ bytesLe32 c.compressedSize) _ _

/-- The format version stands behind the payload (R184). -/
theorem wordAt_containerFile_trailer (c : Container) : wordAt (containerFile c) (12 + c.payload.length) = c.formatVersion := by
  have h := wordAt_append (bytesLe32 c.decompressedSize ++ bytesLe32 c.compressedSize ++ bytesLe32 c.encryptedSize ++ c.payload)
    c.formatVersion []
  rwa [List.length_append, List.append_nil] at h

theorem Config.fits_of_unbounded {cfg : Config} (h : cfg.bufMax = none) (n : Nat) : cfg.fits n = true := by
  simp only [Config.fits, h]

/-- The framing of a container's file runs out of the file, or gives back the three sizes, the payload, and the word that stands where the size
in the header puts the format version, which is the format version where that size is the payload's (R184, R197). -/
theorem frameFile_containerFile (c : Container) {s : State} (hunbounded : s.cfg.bufMax = none) :
    frameFile (containerFile c) s = .error .malformedContainer ∨
      ∃ v u, frameFile (containerFile c) s = .ok (⟨c.decompressedSize, c.compressedSize, c.encryptedSize, c.payload, v⟩, u) ∧
        (c.encryptedSize.toNat = c.payload.length → v = c.formatVersion) := by
  have hlen := containerFile_length c
  obtain ⟨hv0, hv1, hv2⟩ := wordAt_containerFile_header c
  have hwrite : runActions [.writeIn (containerFile c)] s = .next (s.setIn (containerFile c)) :=
    runActions_cons_of_next (perform_writeIn_of_fits (Config.fits_of_unbounded hunbounded _)) []
  obtain ⟨s0, h0, hs0, hin0⟩ := hostParse_inRange hwrite (offset := 0) (by decide) (by rw [State.setIn_inBuf]; omega)
  obtain ⟨s1, h1, hs1, hin1⟩ := hostParse_inRange (runActions_nil s0) (offset := 4) (by decide)
    (by rw [hin0, State.setIn_inBuf]; omega)
  obtain ⟨s2, h2, hs2, hin2⟩ := hostParse_inRange (runActions_nil s1) (offset := 8) (by decide)
    (by rw [hin1, hin0, State.setIn_inBuf]; omega)
  rw [State.setIn_inBuf] at hs0 hin0
  rw [hin0] at hs1 hin1
  rw [hin1] at hs2 hin2
  have hframe : frameFile (containerFile c) s = (hostParse [] (12 + c.encryptedSize.toNat) s2).bind fun s3 =>
      .ok (⟨c.decompressedSize, c.compressedSize, c.encryptedSize, c.payload, s3.value⟩, s3) := by
    simp only [frameFile, h0, h1, h2, Except.bind, hs0, hs1, hs2, hv0, hv1, hv2, memRead_containerFile]
  by_cases hout : s2.inBuf.length < 12 + c.encryptedSize.toNat + 4
  · left
    rw [hframe, hostParse_outOfRange (runActions_nil s2) hout]
    rfl
  by_cases hbig : 12 + c.encryptedSize.toNat < 2 ^ 32
  · right
    obtain ⟨s3, h3, hs3, -⟩ := hostParse_inRange (runActions_nil s2) hbig (by omega)
    refine ⟨s3.value, s3, by rw [hframe, h3]; rfl, fun hsize => ?_⟩
    rw [hs3, hin2, hsize, wordAt_containerFile_trailer]
  · left
    rw [hframe, hostParse, if_neg hbig]
    rfl

theorem sanityCheck_eq_false {c : Container} (h : c.formatVersion ≠ 1#32 ∨ c.encryptedSize.toNat ≠ c.payload.length) :
    sanityCheck c = false := by
  obtain h | h := h
  · simp [sanityCheck, h]
  · simp [sanityCheck, h]

/-- The file of a container of another format version or payload length does not pass the sanity check (R185). -/
theorem checkSanity_containerFile {c : Container} {o : HostObject} (hraw : o.stage = .raw (containerFile c))
    (hunbounded : s.cfg.bufMax = none) (hc : c.formatVersion ≠ 1#32 ∨ c.encryptedSize.toNat ≠ c.payload.length) :
    checkSanity o s = .error .malformedContainer := by
  simp only [checkSanity, hraw]
  obtain hframe | ⟨v, u, hframe, hv⟩ := frameFile_containerFile c hunbounded
  · rw [hframe]
    rfl
  · have hinsane : sanityCheck ⟨c.decompressedSize, c.compressedSize, c.encryptedSize, c.payload, v⟩ = false := by
      apply sanityCheck_eq_false
      by_cases hsize : c.encryptedSize.toNat = c.payload.length
      · exact .inl (hv hsize ▸ hc.resolve_right (not_not_intro hsize))
      · exact .inr hsize
    rw [hframe]
    simp only [Except.bind, hinsane, Bool.false_eq_true, if_false]

end

/-! ## The outer layer -/

section
variable {s : State} {plain : List Byte}

/-- The cipher's result is no longer than its input (R70, R75, R77). -/
theorem cipherResult_length_le {rounds : List Word → List Word → List Word} {cfg : Config} {data key out : List Byte}
    (hlen : ∀ g w, (rounds g w).length = w.length) (h : cipherResult rounds cfg data key = .ok out) :
    out.length ≤ data.length := by
  obtain ⟨-, hr⟩ | ⟨-, -, hr⟩ | ⟨-, -, -, hr⟩ | ⟨-, -, -, -, hr⟩ | ⟨-, -, -, -, hr⟩ | ⟨-, -, hr⟩ :=
    cipherResult_cases cfg rounds data key
  all_goals
    rw [hr] at h
    cases h
  · exact Nat.zero_le _
  · exact List.length_take_le' 4 _
  · rw [bytesLe_length, hlen, wordsLe_length]
    omega

/-- The first half of the outer layer: where the cipher has a result, the host has it, and the configuration stays (R186). -/
theorem decryptPayload_of_ok {key : Key} {payload : List Byte} (hpayload : s.cfg.fits payload.length = true)
    (hkey : s.cfg.fits 16 = true) (h : decryptResult s.cfg payload key.toList = .ok plain) :
    ∃ t, decryptPayload key payload s = .ok (plain, t) ∧ t.cfg = s.cfg ∧ s.cfg.fits plain.length = true := by
  have hfit : s.cfg.fits plain.length = true :=
    Config.fits_mono hpayload (cipherResult_length_le (decryptWords_length s.cfg) h)
  have hwrites : runActions [.writeIn payload, .writeKey key.toList] s = .next ((s.setIn payload).setKey key.toList) :=
    (runActions_cons_of_next (perform_writeIn_of_fits hpayload) _).trans
      (runActions_cons_of_next (perform_writeKey_of_fits (s := s.setIn payload) (by rwa [Vector.length_toList])) [])
  have hexec := (exec_xxteaDec_eq_execCipher (((s.setIn payload).setKey key.toList).setCmd (encode .xxteaDec))).trans
    (execCipher_of_ok h hfit)
  rw [decryptPayload, hostCommand_completes hwrites hexec]
  exact ⟨_, rfl, rfl, hfit⟩

/-- The second half on bytes that are no stream (R119). -/
theorem inflatePayload_of_malformed (hplain : s.cfg.fits plain.length = true) (h : inflateWrapped s.cfg.deflateWrap plain = none) :
    inflatePayload plain s = .error .decryptionFailure := by
  rw [inflatePayload, hostCommand_faults (runActions_cons_of_next (perform_writeIn_of_fits hplain) [])
    (exec_inflate_of_malformed (s := (s.setIn plain).setCmd (encode .inflate)) h)]
  rfl

/-- The second half on a stream whose bytes do not fit (R193). -/
theorem inflatePayload_of_not_fits {out left : List Byte} (hplain : s.cfg.fits plain.length = true)
    (h : inflateWrapped s.cfg.deflateWrap plain = some (out, left)) (hout : s.cfg.fits out.length = false) :
    inflatePayload plain s = .error .programmingError := by
  rw [inflatePayload, hostCommand_faults (runActions_cons_of_next (perform_writeIn_of_fits hplain) [])
    (exec_inflate_of_not_fits (s := (s.setIn plain).setCmd (encode .inflate)) h hout)]
  rfl

/-- The second half on a stream whose bytes fit (R186). -/
theorem inflatePayload_of_fits {out left : List Byte} (hplain : s.cfg.fits plain.length = true)
    (h : inflateWrapped s.cfg.deflateWrap plain = some (out, left)) (hout : s.cfg.fits out.length = true) :
    ∃ t, inflatePayload plain s = .ok (out, t) := by
  rw [inflatePayload, hostCommand_completes (runActions_cons_of_next (perform_writeIn_of_fits hplain) [])
    (exec_inflate_of_fits (s := (s.setIn plain).setCmd (encode .inflate)) h hout)]
  exact ⟨_, rfl⟩

/-- Where the payload decrypts, `decryptOuterLayer` ends as the inflation of the bytes does (R186). -/
theorem decryptOuterLayer_of_decrypted {o : HostObject} {keys : KeyPair} {c : Container} (hk : o.keys = some keys)
    (hc : o.stage.container = some c) (hsane : sanityCheck c = true) (hpayload : s.cfg.fits c.payload.length = true)
    (hkey : s.cfg.fits 16 = true) (h : decryptResult s.cfg c.payload keys.outerKey.toList = .ok plain) :
    ∃ t, t.cfg = s.cfg ∧ s.cfg.fits plain.length = true ∧
      decryptOuterLayer o s = (inflatePayload plain t).bind fun r => .ok ({ o with stage := .outerDecompressed c r.1 }, r.2) := by
  obtain ⟨t, hdecrypt, hcfg, hfit⟩ := decryptPayload_of_ok hpayload hkey h
  refine ⟨t, hcfg, hfit, ?_⟩
  rw [decryptOuterLayer_eq hk hc, onlyIfSane_of_sane hsane, hdecrypt]
  rfl

end

/-! ## The public surface -/

section
variable {md5 : List Byte → Key} {suffix deviceId : List Nat}

theorem keyOrError_of_none (h : deriveOuterKey md5 suffix deviceId = none) :
    keyOrError md5 suffix deviceId = .error .unrecognizedIdentifier := by simp only [keyOrError, h]

theorem keyOrError_of_some {k : Key} (h : deriveOuterKey md5 suffix deviceId = some k) :
    keyOrError md5 suffix deviceId = .ok k := by simp only [keyOrError, h]

/-- Decoding a file that does not pass the sanity check fails as the check does (R185, R193). -/
theorem hostDecode_of_checkSanity_error {k : Key} {file : List Byte} {s : State} {e : HostError}
    (h : checkSanity ⟨some ⟨k⟩, .raw file⟩ s = .error e) : hostDecode k file s = .error e := by
  simp only [hostDecode, setOuterKey, HostObject.fromFile, Except.bind, h]

end

/-! ## The statement -/

/-- Settles O60: each failure by the operation that names it. -/
theorem hostFailuresAreNamed : Obligations.HostFailuresAreNamed := by
  unfold Obligations.HostFailuresAreNamed
  refine ⟨fun md5 suffix document deviceId file s hkey => ?noKey, fun md5 suffix deviceId k c s hkey hunbounded hc => ?malformed,
    fun valid md5 suffix deviceId file s r h => ?verdict, fun o keys c s hk hc hinsane => ?insane,
    fun o keys c s plain hk hc hsane hpayload hkey hdecrypt => ?outer⟩
  case noKey =>
    rw [codecDecode, codecEncode, keyOrError_of_none hkey]
    exact ⟨rfl, rfl⟩
  case malformed =>
    rw [codecDecode, keyOrError_of_some hkey]
    exact hostDecode_of_checkSanity_error (checkSanity_containerFile rfl hunbounded hc)
  case verdict =>
    rw [loadDocument, h]
    rfl
  case insane =>
    refine ⟨?_, fun b hb => ?_⟩
    · rw [decryptOuterLayer_eq hk hc, onlyIfSane_of_not_sane hinsane]
    · rw [decryptInnerLayer_eq hc hb, onlyIfSane_of_not_sane hinsane]
  case outer =>
    obtain ⟨t, hcfg, hplain, houter⟩ := decryptOuterLayer_of_decrypted hk hc hsane hpayload hkey hdecrypt
    rw [houter]
    rw [← hcfg] at hplain ⊢
    refine ⟨fun h => ?_, fun out left h => ⟨fun hout => ?_, fun hout => ?_⟩⟩
    · rw [inflatePayload_of_malformed hplain h]
      rfl
    · rw [inflatePayload_of_not_fits hplain h hout]
      rfl
    · obtain ⟨u, hinflate⟩ := inflatePayload_of_fits hplain h hout
      exact ⟨u, by rw [hinflate]; rfl⟩

end Sys2Proof.Machine
end

section
/-! SUPPORT. The byte-order commands (44_byte_order.md R140 to R145): each form element by element, each command under the condition on
its outcome, and how the commands undo each other. -/

namespace Sys2Proof.Machine

/-! ## A word of a buffer -/

section
variable {b : List Byte} {i : Nat} {b0 b1 b2 b3 : Byte}

/-- The word at an index is that of the four bytes there (R9, R140). -/
theorem wordAt_of_getElem? (h0 : b[i]? = some b0) (h1 : b[i + 1]? = some b1) (h2 : b[i + 2]? = some b2) (h3 : b[i + 3]? = some b3) :
    wordAt b i = le32 b0 b1 b2 b3 := by
  simp only [wordAt, List.getD_eq_getElem?_getD, h0, h1, h2, h3, Option.getD_some]

/-- A group of four bytes ends inside the buffer where its last byte is there. -/
theorem add_four_le_length (h3 : b[i + 3]? = some b3) : i + 4 ≤ b.length := (List.getElem?_eq_some_iff.1 h3).1

/-- Word `i` of a buffer is the word at `4i` (R142, R145 (c)). -/
theorem wordsLe_getElem? : ∀ {b : List Byte} {i : Nat}, i < b.length / 4 → (wordsLe b)[i]? = some (wordAt b (4 * i))
  | _ :: _ :: _ :: _ :: _, 0, _ => rfl
  | b0 :: b1 :: b2 :: b3 :: rest, i + 1, h => by
    have hi : i < rest.length / 4 := by simp only [List.length_cons] at h; omega
    simp [wordsLe_getElem? hi, wordAt, Nat.mul_succ]
  | [], _, h | [_], _, h | [_, _], _, h | [_, _, _], _, h => by simp at h

theorem wordsLe_getElem?_of_group (h0 : b[4 * i]? = some b0) (h1 : b[4 * i + 1]? = some b1) (h2 : b[4 * i + 2]? = some b2)
    (h3 : b[4 * i + 3]? = some b3) : (wordsLe b)[i]? = some (le32 b0 b1 b2 b3) := by
  have hlen := add_four_le_length h3
  rw [wordsLe_getElem? (by omega), wordAt_of_getElem? h0 h1 h2 h3]

end

/-! ## A byte of a word -/

theorem bytesLe32_getElem? (w : Word) {j : Nat} (hj : j < 4) : (bytesLe32 w)[j]? = some (w.extractLsb' (8 * j) 8) := by
  match j, hj with
  | 0, _ | 1, _ | 2, _ | 3, _ => rfl

/-- Bytes `4i` to `4i + 3` of the bytes of words are those of word `i` (R143). -/
theorem bytesLe_getElem? {w : Word} {j : Nat} (hj : j < 4) : ∀ {ws : List Word} {i : Nat}, ws[i]? = some w →
    (bytesLe ws)[4 * i + j]? = some (w.extractLsb' (8 * j) 8)
  | v :: ws, 0, h => by
    obtain rfl : v = w := by simpa using h
    rw [bytesLe_cons, List.getElem?_append_left (by rw [bytesLe32_length]; omega), Nat.mul_zero, Nat.zero_add, bytesLe32_getElem? v hj]
  | v :: ws, i + 1, h => by
    have hindex : 4 * (i + 1) + j - 4 = 4 * i + j := by omega
    rw [bytesLe_cons, List.getElem?_append_right (by rw [bytesLe32_length]; omega), bytesLe32_length, hindex,
      bytesLe_getElem? hj (List.getElem?_cons_succ ▸ h)]

/-! ## A write inside a buffer -/

section
variable {α : Type} {b v : List α} {i k : Nat}

/-- A write replaces the elements it covers (R9). -/
theorem memWrite_getElem?_inside (hi : i ≤ b.length) (hk : k < v.length) : (memWrite b i v)[i + k]? = v[k]? := by
  have htake : (b.take i).length = i := List.length_take_of_le hi
  rw [memWrite, List.append_assoc, List.getElem?_append_right (by omega), htake, Nat.add_sub_cancel_left,
    List.getElem?_append_left hk]

/-- A write changes no element outside the ones it covers (R9). -/
theorem memWrite_getElem?_outside (hi : i + v.length ≤ b.length) (hk : k < i ∨ i + v.length ≤ k) : (memWrite b i v)[k]? = b[k]? := by
  have htake : (b.take i).length = i := List.length_take_of_le (by omega)
  rw [memWrite, List.append_assoc]
  obtain hbefore | hafter := hk
  · rw [List.getElem?_append_left (by omega), List.getElem?_take_of_lt hbefore]
  · rw [List.getElem?_append_right (by omega), List.getElem?_append_right (by omega), List.getElem?_drop]
    congr 1
    omega

end

/-- The word written at an index is read back there (R145 (d)). -/
theorem wordAt_memWrite {b : List Byte} {i : Nat} (w : Word) (hi : i ≤ b.length) : wordAt (memWrite b i (bytesLe32 w)) i = w := by
  have h := wordAt_append (b.take i) w (b.drop (i + 4))
  rwa [List.length_take_of_le hi, ← List.append_assoc] at h

/-! ## The reversed groups -/

section
variable {b : List Byte} {i : Nat} {b0 b1 b2 b3 : Byte}

/-- Every complete group is reversed (R144). -/
theorem reorderGroups_getElem?_group {j : Nat} (hj : j < 4) : ∀ {b : List Byte} {i : Nat}, 4 * i + 4 ≤ b.length →
    (reorderGroups b)[4 * i + j]? = b[4 * i + 3 - j]?
  | b0 :: b1 :: b2 :: b3 :: rest, 0, _ => by
    match j, hj with
    | 0, _ | 1, _ | 2, _ | 3, _ => rfl
  | b0 :: b1 :: b2 :: b3 :: rest, i + 1, h => by
    have hi : 4 * i + 4 ≤ rest.length := by simp only [List.length_cons] at h; omega
    have hleft : 4 * (i + 1) + j = 4 * i + j + 4 := by omega
    have hright : 4 * (i + 1) + 3 - j = 4 * i + 3 - j + 4 := by omega
    rw [hleft, hright]
    exact reorderGroups_getElem?_group hj hi
  | [], _, h | [_], _, h | [_, _], _, h | [_, _, _], _, h => by simp at h

/-- The bytes past the last complete group stay (R144). -/
theorem reorderGroups_getElem?_tail : ∀ {b : List Byte} {k : Nat}, b.length - b.length % 4 ≤ k → (reorderGroups b)[k]? = b[k]?
  | [], _, _ | [_], _, _ | [_, _], _, _ | [_, _, _], _, _ => rfl
  | b0 :: b1 :: b2 :: b3 :: rest, k, h => by
    simp only [List.length_cons] at h
    obtain ⟨m, rfl⟩ : ∃ m, k = m + 4 := ⟨k - 4, by omega⟩
    exact reorderGroups_getElem?_tail (b := rest) (by omega)

/-- Reversing the groups twice gives the buffer (R145 (b)). -/
@[simp] theorem reorderGroups_reorderGroups : ∀ b : List Byte, reorderGroups (reorderGroups b) = b
  | [] | [_] | [_, _] | [_, _, _] => rfl
  | b0 :: b1 :: b2 :: b3 :: rest => by simp only [reorderGroups_cons4, reorderGroups_reorderGroups rest]

/-- The words of the reversed groups are the big-endian words (R145 (e)). -/
theorem wordsLe_reorderGroups_getElem? (h0 : b[4 * i]? = some b0) (h1 : b[4 * i + 1]? = some b1) (h2 : b[4 * i + 2]? = some b2)
    (h3 : b[4 * i + 3]? = some b3) : (wordsLe (reorderGroups b))[i]? = some (be32 b0 b1 b2 b3) := by
  have hgroup {j : Nat} (hj : j < 4) := reorderGroups_getElem?_group hj (add_four_le_length h3)
  rw [be32_eq_le32]
  exact wordsLe_getElem?_of_group ((hgroup (j := 0) (by decide)).trans h3) ((hgroup (j := 1) (by decide)).trans h2)
    ((hgroup (j := 2) (by decide)).trans h1) ((hgroup (j := 3) (by decide)).trans h0)

end

/-! ## The commands -/

section
variable {s : State}

theorem exec_writeU32le_of_inRange (hfit : s.cfg.fits s.inBuf.length = true) (h : s.offset.toNat + 4 ≤ s.inBuf.length) :
    exec .writeU32le s = .next (complete (s.setOut (memWrite s.inBuf s.offset.toNat (bytesLe32 s.value)))) := by
  have hrange : offsetInRange s = true := decide_eq_true h
  rw [exec_writeU32le, writeResult, if_pos hrange, finishOut_ok s (by rwa [memWrite_length h])]

theorem exec_writeU32le_of_outOfRange (h : s.inBuf.length < s.offset.toNat + 4) :
    exec .writeU32le s = .next (takeFault .outOfRange s) := by
  have hrange : offsetInRange s = false := decide_eq_false (by omega)
  rw [exec_writeU32le, writeResult, hrange]
  rfl

theorem exec_b2w_of_fits (hfit : s.cfg.fits s.inBuf.length = true) : exec .b2w s = .next (complete (s.setWrd (wordsLe s.inBuf))) := by
  have hwords : s.cfg.fits (wordsLe s.inBuf).length = true := Config.fits_mono hfit (by rw [wordsLe_length]; omega)
  rw [exec_b2w, finishWrd_ok s hwords]

theorem exec_w2b_of_fits (hfit : s.cfg.fits (4 * s.wrdBuf.length) = true) :
    exec .w2b s = .next (complete (s.setOut (bytesLe s.wrdBuf))) := by
  rw [exec_w2b, finishOut_ok s (by rwa [bytesLe_length])]

theorem exec_w2b_of_not_fits (hfit : s.cfg.fits (4 * s.wrdBuf.length) = false) :
    exec .w2b s = .next (takeFault .overflow s) := by
  rw [exec_w2b, finishOut_overflow (by rwa [bytesLe_length])]

end

/-! ## One command after another -/

section
variable {s : State}

/-- `W2B` after `B2W` drops the remainder below four bytes (R145 (a)). -/
theorem exec_w2b_exec_b2w (hfit : s.cfg.fits s.inBuf.length = true) :
    ∃ t u, exec .b2w s = .next t ∧ exec .w2b t = .next u ∧ u.code = 0#8 ∧
      u.outBuf = s.inBuf.take (s.inBuf.length - s.inBuf.length % 4) := by
  have hbytes : s.cfg.fits (4 * (wordsLe s.inBuf).length) = true := Config.fits_mono hfit (by rw [wordsLe_length]; omega)
  exact ⟨_, _, exec_b2w_of_fits hfit, exec_w2b_of_fits hbytes, rfl, bytesLe_wordsLe s.inBuf⟩

/-- `B2W` after `W2B` gives the words back (R145 (a)). -/
theorem exec_b2w_exec_w2b (hfit : s.cfg.fits (4 * s.wrdBuf.length) = true) :
    ∃ t u, exec .w2b s = .next t ∧ exec .b2w (t.setIn t.outBuf) = .next u ∧ u.code = 0#8 ∧ u.wrdBuf = s.wrdBuf := by
  have hbytes : s.cfg.fits (bytesLe s.wrdBuf).length = true := by rwa [bytesLe_length]
  exact ⟨_, _, exec_w2b_of_fits hfit, exec_b2w_of_fits hbytes, rfl, wordsLe_bytesLe s.wrdBuf⟩

/-- `REORDER` undoes itself (R145 (b)). -/
theorem exec_reorder_exec_reorder (hfit : s.cfg.fits s.inBuf.length = true) :
    ∃ t u, exec .reorder s = .next t ∧ exec .reorder (t.setIn t.outBuf) = .next u ∧ u.code = 0#8 ∧ u.outBuf = s.inBuf := by
  have hbytes : s.cfg.fits (reorderGroups s.inBuf).length = true := by rwa [reorderGroups_length]
  exact ⟨_, _, exec_reorder_of_fits hfit, exec_reorder_of_fits hbytes, rfl, reorderGroups_reorderGroups s.inBuf⟩

/-- `PARSE_U32LE` at `4i` reads word `i` of `B2W` (R145 (c)). -/
theorem exec_parseU32le_exec_b2w (hfit : s.cfg.fits s.inBuf.length = true) {i : Nat} (hi : i < s.inBuf.length / 4)
    (hoffset : 4 * i < 2 ^ 32) :
    ∃ t u, exec .b2w s = .next t ∧ exec .parseU32le (s.setOffset (BitVec.ofNat 32 (4 * i))) = .next u ∧ u.code = 0#8 ∧
      t.wrdBuf[i]? = some u.value := by
  have hoff : (BitVec.ofNat 32 (4 * i)).toNat = 4 * i := (BitVec.toNat_ofNat ..).trans (Nat.mod_eq_of_lt hoffset)
  have hrange : (BitVec.ofNat 32 (4 * i)).toNat + 4 ≤ s.inBuf.length := by omega
  refine ⟨_, _, exec_b2w_of_fits hfit, exec_parseU32le_of_inRange hrange, rfl, ?_⟩
  simp only [complete_wrdBuf, State.setWrd_wrdBuf, complete_value, State.setValue_value, State.setOffset_inBuf, State.setOffset_offset,
    hoff, wordsLe_getElem? hi]

/-- `PARSE_U32LE` reads back what `WRITE_U32LE` wrote at the same `OFFSET` (R145 (d)). -/
theorem exec_parseU32le_exec_writeU32le (hfit : s.cfg.fits s.inBuf.length = true) (hrange : s.offset.toNat + 4 ≤ s.inBuf.length) (v : Word) :
    ∃ t u, exec .writeU32le s = .next t ∧ exec .parseU32le ((t.setIn t.outBuf).setValue v) = .next u ∧ u.code = 0#8 ∧
      u.value = s.value := by
  have hcopy : s.offset.toNat + 4 ≤ (memWrite s.inBuf s.offset.toNat (bytesLe32 s.value)).length := by rwa [memWrite_length hrange]
  exact ⟨_, _, exec_writeU32le_of_inRange hfit hrange, exec_parseU32le_of_inRange hcopy, rfl, wordAt_memWrite s.value (by omega)⟩

/-- `B2W` after `REORDER` reads the big-endian words (R145 (e)). -/
theorem exec_b2w_exec_reorder (hfit : s.cfg.fits s.inBuf.length = true) :
    ∃ t u, exec .reorder s = .next t ∧ exec .b2w (t.setIn t.outBuf) = .next u ∧ u.code = 0#8 ∧
      ∀ (i : Nat) (b0 b1 b2 b3 : Byte), s.inBuf[4 * i]? = some b0 → s.inBuf[4 * i + 1]? = some b1 →
        s.inBuf[4 * i + 2]? = some b2 → s.inBuf[4 * i + 3]? = some b3 → u.wrdBuf[i]? = some (be32 b0 b1 b2 b3) := by
  have hbytes : s.cfg.fits (reorderGroups s.inBuf).length = true := by rwa [reorderGroups_length]
  exact ⟨_, _, exec_reorder_of_fits hfit, exec_b2w_of_fits hbytes, rfl,
    fun _ _ _ _ _ h0 h1 h2 h3 => wordsLe_reorderGroups_getElem? h0 h1 h2 h3⟩

end

/-! ## The statements -/

/-- Settles O41: in unbounded naturals the four bytes are there exactly where `OFFSET + 4` is within `IN`. -/
theorem parseReadsALittleEndianWord : Obligations.ParseReadsALittleEndianWord := by
  unfold Obligations.ParseReadsALittleEndianWord
  refine ⟨fun s b0 b1 b2 b3 h0 h1 h2 h3 => ?_, fun s h => exec_parseU32le_of_outOfRange h⟩
  refine ⟨wordAt s.inBuf s.offset.toNat, ?_, exec_parseU32le_of_inRange (add_four_le_length h3)⟩
  rw [wordAt_of_getElem? h0 h1 h2 h3, le32_toNat]

/-- Settles O42: the result is a write of four bytes inside a copy of `IN`. -/
theorem writeReplacesFourBytes : Obligations.WriteReplacesFourBytes := by
  unfold Obligations.WriteReplacesFourBytes
  refine ⟨fun s hwf hrange => ?_, fun s h => exec_writeU32le_of_outOfRange h⟩
  refine ⟨memWrite s.inBuf s.offset.toNat (bytesLe32 s.value), exec_writeU32le_of_inRange (fits_of_le_inBuf hwf le_rfl) hrange,
    memWrite_length hrange, fun j hj => ?_, fun k hk => ?_⟩
  · rw [memWrite_getElem?_inside (by omega) hj, bytesLe32_getElem? s.value hj]
  · exact memWrite_getElem?_outside hrange hk

/-- Settles O43: word `i` is the word at `4i`. -/
theorem b2wGroupsBytesIntoWords : Obligations.B2wGroupsBytesIntoWords := by
  unfold Obligations.B2wGroupsBytesIntoWords
  intro s hwf
  exact ⟨_, exec_b2w_of_fits (fits_of_le_inBuf hwf le_rfl), wordsLe_length _,
    fun _ _ _ _ _ h0 h1 h2 h3 => wordsLe_getElem?_of_group h0 h1 h2 h3⟩

/-- Settles O44: four bytes a word, so `Overflow` is a matter of the number of words alone. -/
theorem w2bSpreadsWordsIntoBytes : Obligations.W2bSpreadsWordsIntoBytes := by
  unfold Obligations.W2bSpreadsWordsIntoBytes
  intro s
  refine ⟨fun hfit => ?_, fun hfit => exec_w2b_of_not_fits hfit⟩
  exact ⟨_, exec_w2b_of_fits hfit, bytesLe_length _, fun _ _ _ hj hw => bytesLe_getElem? hj hw⟩

/-- Settles O45: groups and tail, byte by byte. -/
theorem reorderReversesEveryGroup : Obligations.ReorderReversesEveryGroup := by
  unfold Obligations.ReorderReversesEveryGroup
  intro s hwf
  exact ⟨_, exec_reorder_of_fits (fits_of_le_inBuf hwf le_rfl), reorderGroups_length _,
    fun _ _ hi hj => reorderGroups_getElem?_group hj hi, fun _ hk => reorderGroups_getElem?_tail hk⟩

/-- Settles O46: one lemma for each of R145's laws, (a) in both directions. -/
theorem byteOrderLaws : Obligations.ByteOrderLaws := by
  unfold Obligations.ByteOrderLaws
  intro s hwf
  have hfit : s.cfg.fits s.inBuf.length = true := fits_of_le_inBuf hwf le_rfl
  exact ⟨exec_w2b_exec_b2w hfit, fun hbytes => exec_b2w_exec_w2b hbytes, exec_reorder_exec_reorder hfit,
    fun _ hi hoffset => exec_parseU32le_exec_b2w hfit hi hoffset,
    fun v hrange => exec_parseU32le_exec_writeU32le hfit hrange v, exec_b2w_exec_reorder hfit⟩

end Sys2Proof.Machine
end

section
/-! SUPPORT. The text commands (45_hex_ascii.md R160 to R165): digits and their characters, pairs of digits and bytes, each command under
the condition on its outcome, and how the commands undo each other. -/

namespace Sys2Proof.Machine

/-! ## Digits -/

section
variable {c n : Nat}

/-- The characters without a value (R164). -/
theorem hexValue_eq_none_iff :
    hexValue c = none ↔ ¬(0x30 ≤ c ∧ c ≤ 0x39) ∧ ¬(0x41 ≤ c ∧ c ≤ 0x46) ∧ ¬(0x61 ≤ c ∧ c ≤ 0x66) := by
  unfold hexValue
  split_ifs <;> simp_all

theorem hexDigit_of_le_nine (h : n ≤ 9) : hexDigit n = 0x30 + n := if_pos h

theorem hexDigit_of_ten_le (h : 10 ≤ n) : hexDigit n = 0x41 + (n - 10) := by
  rw [hexDigit, if_neg (by omega)]
  omega

/-- A lowercase letter has the value of the uppercase one (R164). -/
theorem hexValue_lowercase (h : 10 ≤ n) (hn : n < 16) : hexValue (0x61 + (n - 10)) = some n := by
  rw [hexValue, if_neg (by omega), if_neg (by omega), if_pos (by omega)]
  congr 1
  omega

/-- The uppercase form of a hex digit; it leaves every other character as it is (R165 (d)). -/
def upperHex (c : Nat) : Nat := if 0x61 ≤ c ∧ c ≤ 0x66 then c - 0x20 else c

/-- `hd` writes back what `hv` read, in uppercase (R164). -/
theorem hexDigit_of_hexValue (h : hexValue c = some n) : hexDigit n = upperHex c := by
  unfold hexValue at h
  split_ifs at h with hdecimal hupper hlower
  · obtain rfl := Option.some.inj h
    rw [hexDigit_of_le_nine (by omega), upperHex, if_neg (by omega)]
    omega
  · obtain rfl := Option.some.inj h
    rw [hexDigit_of_ten_le (by omega), upperHex, if_neg (by omega)]
    omega
  · obtain rfl := Option.some.inj h
    rw [hexDigit_of_ten_le (by omega), upperHex, if_pos hlower]
    omega

end

/-! ## Pairs of digits -/

section
variable {c d h l : Nat} {t : List Nat} {b bytes : List Byte}

/-- Two digit values make the byte `16h + l` (R160). -/
theorem toNat_byteOfDigits (hc : hexValue c = some h) (hd : hexValue d = some l) : (BitVec.ofNat 8 (16 * h + l)).toNat = 16 * h + l := by
  have hh := hexValue_lt hc
  have hl := hexValue_lt hd
  rw [BitVec.toNat_ofNat, Nat.mod_eq_of_lt (by omega)]

theorem hexDecode_pair (hc : hexValue c = some h) (hd : hexValue d = some l) (ht : hexDecode t = some bytes) :
    hexDecode (c :: d :: t) = some (BitVec.ofNat 8 (16 * h + l) :: bytes) := by
  simp only [hexDecode, hc, hd, ht]

/-- A pair decodes where both characters are digits and the rest decodes (R160). -/
theorem hexDecode_pair_eq_some_iff : hexDecode (c :: d :: t) = some b ↔
    ∃ h l bytes, hexValue c = some h ∧ hexValue d = some l ∧ hexDecode t = some bytes ∧ b = BitVec.ofNat 8 (16 * h + l) :: bytes := by
  constructor
  · intro hb
    simp only [hexDecode] at hb
    split at hb
    · next h l bytes hc hd ht => exact ⟨h, l, bytes, hc, hd, ht, (Option.some.inj hb).symm⟩
    · cases hb
  · rintro ⟨h, l, bytes, hc, hd, ht, rfl⟩
    exact hexDecode_pair hc hd ht

/-- Decoding succeeds exactly where every examined character is a digit (R160). -/
theorem exists_hexDecode_iff : ∀ {t : List Nat},
    (∃ b, hexDecode t = some b) ↔ ∀ i, i < 2 * (t.length / 2) → hexValue (t.getD i 0) ≠ none
  | [] | [_] => by simp [hexDecode]
  | c :: d :: t => by
    have hlen : 2 * ((c :: d :: t).length / 2) = 2 * (t.length / 2) + 2 := by simp only [List.length_cons]; omega
    rw [hlen]
    constructor
    · rintro ⟨b, hb⟩ i hi
      obtain ⟨h, l, bytes, hc, hd, ht, -⟩ := hexDecode_pair_eq_some_iff.1 hb
      match i with
      | 0 => simp [hc]
      | 1 => simp [hd]
      | i + 2 => exact exists_hexDecode_iff.1 ⟨bytes, ht⟩ i (by omega)
    · intro hdigits
      obtain ⟨h, hc⟩ := Option.ne_none_iff_exists'.1 (hdigits 0 (by omega))
      obtain ⟨l, hd⟩ := Option.ne_none_iff_exists'.1 (hdigits 1 (by omega))
      obtain ⟨bytes, ht⟩ := exists_hexDecode_iff.2 fun i hi => hdigits (i + 2) (by omega)
      exact ⟨_, hexDecode_pair hc hd ht⟩

theorem hexDecode_eq_none_iff : hexDecode t = none ↔ ∃ i, i < 2 * (t.length / 2) ∧ hexValue (t.getD i 0) = none := by
  rw [Option.eq_none_iff_forall_ne_some]
  simpa using not_congr (exists_hexDecode_iff (t := t))

/-- Byte `i` is made of the digits at `2i` and `2i + 1` (R160). -/
theorem hexDecode_getD : ∀ {t : List Nat} {b : List Byte} {i : Nat}, hexDecode t = some b → i < t.length / 2 →
    hexValue (t.getD (2 * i) 0) = some h → hexValue (t.getD (2 * i + 1) 0) = some l → (b.getD i 0#8).toNat = 16 * h + l
  | [], _, _, _, hi, _, _ | [_], _, _, _, hi, _, _ => by simp at hi
  | c :: d :: t, b, i, hb, hi, hhigh, hlow => by
    obtain ⟨h', l', bytes, hc, hd, ht, rfl⟩ := hexDecode_pair_eq_some_iff.1 hb
    match i with
    | 0 =>
      obtain rfl : h' = h := Option.some.inj (hc.symm.trans hhigh)
      obtain rfl : l' = l := Option.some.inj (hd.symm.trans hlow)
      exact toNat_byteOfDigits hc hd
    | i + 1 =>
      have hi' : i < t.length / 2 := by simp only [List.length_cons] at hi; omega
      exact (hexDecode_getD ht hi' hhigh hlow :)

end

/-! ## The text of bytes -/

section
variable {v : Byte} {b : List Byte} {t : List Nat}

/-- A byte below 16 is written without a leading zero (R161). -/
def isOneDigit (v : Byte) : Bool := decide (v.toNat < 16)

theorem isOneDigit_iff : isOneDigit v = true ↔ v.toNat < 16 := decide_eq_true_iff

theorem hexOfByte_of_lt (h : v.toNat < 16) : hexOfByte v = [hexDigit v.toNat] := if_pos h

theorem hexOfByte_of_le (h : 16 ≤ v.toNat) : hexOfByte v = [hexDigit (v.toNat / 16), hexDigit (v.toNat % 16)] :=
  if_neg (by omega)

/-- The two digits are those of the nibbles `v[7:4]` and `v[3:0]` (R161). -/
theorem hexOfByte_eq_nibbles (v : Byte) : hexOfByte v = if v.toNat < 16 then [hexDigit v.toNat]
    else [hexDigit (v.extractLsb' 4 4).toNat, hexDigit (v.extractLsb' 0 4).toNat] := by
  have hhigh : (v.extractLsb' 4 4).toNat = v.toNat / 16 := by
    rw [BitVec.extractLsb'_toNat, Nat.shiftRight_eq_div_pow]
    omega
  have hlow : (v.extractLsb' 0 4).toNat = v.toNat % 16 := by
    rw [BitVec.extractLsb'_toNat, Nat.shiftRight_zero]
  rw [hexOfByte, hhigh, hlow]

/-- The length of the text: two characters a byte, less one for each byte below 16 (R161). -/
theorem hexEncode_length_add_countP : ∀ b : List Byte, (hexEncode b).length + b.countP isOneDigit = 2 * b.length
  | [] => rfl
  | v :: b => by
    have ih := hexEncode_length_add_countP b
    rw [hexEncode_cons, List.length_append, List.countP_cons, List.length_cons]
    by_cases hv : v.toNat < 16
    · rw [hexOfByte_of_lt hv, if_pos (isOneDigit_iff.2 hv), List.length_singleton]
      omega
    · rw [hexOfByte_of_le (by omega), if_neg (mt isOneDigit_iff.1 hv), List.length_cons, List.length_singleton]
      omega

theorem hexEncode_length_le (b : List Byte) : (hexEncode b).length ≤ 2 * b.length :=
  hexEncode_length_add_countP b ▸ Nat.le_add_right _ _

/-- The text has its full length exactly where no byte is below 16 (R165 (c), (e)). -/
theorem hexEncode_length_eq_iff : (hexEncode b).length = 2 * b.length ↔ ∀ v ∈ b, 16 ≤ v.toNat := by
  have hlen := hexEncode_length_add_countP b
  have hcount : b.countP isOneDigit = 0 ↔ ∀ v ∈ b, 16 ≤ v.toNat := by simp [List.countP_eq_zero, isOneDigit_iff]
  rw [← hcount]
  omega

theorem hexEncode_length_lt (h : ∃ v ∈ b, v.toNat < 16) : (hexEncode b).length < 2 * b.length := by
  obtain ⟨v, hv, hlt⟩ := h
  refine lt_of_le_of_ne (hexEncode_length_le b) fun heq => ?_
  have hle := hexEncode_length_eq_iff.1 heq v hv
  omega

/-- Every character that `HEX_ENC` writes is a digit (R161). -/
theorem exists_hexValue_of_mem_hexEncode {c : Nat} (h : c ∈ hexEncode b) : ∃ n, hexValue c = some n := by
  obtain ⟨v, -, hc⟩ := List.mem_flatMap.1 h
  have hv : v.toNat < 256 := v.isLt
  by_cases hlt : v.toNat < 16
  · rw [hexOfByte_of_lt hlt, List.mem_singleton] at hc
    exact ⟨_, hc ▸ hexValue_hexDigit hlt⟩
  · rw [hexOfByte_of_le (by omega), List.mem_pair] at hc
    obtain rfl | rfl := hc
    · exact ⟨_, hexValue_hexDigit (by omega)⟩
    · exact ⟨_, hexValue_hexDigit (by omega)⟩

/-- Any text of `HEX_ENC` decodes, if not to the bytes it came from (R165 (c)). -/
theorem exists_hexDecode_hexEncode (b : List Byte) : ∃ d, hexDecode (hexEncode b) = some d := by
  refine exists_hexDecode_iff.2 fun i hi => ?_
  have hlt : i < (hexEncode b).length := by omega
  obtain ⟨n, hn⟩ := exists_hexValue_of_mem_hexEncode (List.getElem_mem hlt)
  rw [List.getD_eq_getElem _ _ hlt, hn]
  exact Option.some_ne_none n

/-- Where every byte has two digits the text decodes to the bytes (R165 (c)). -/
theorem hexDecode_hexEncode : ∀ {b : List Byte}, (∀ v ∈ b, 16 ≤ v.toNat) → hexDecode (hexEncode b) = some b
  | [], _ => rfl
  | v :: b, h => by
    obtain ⟨hv, hb⟩ := List.forall_mem_cons.1 h
    have hlt : v.toNat < 256 := v.isLt
    have hhigh : hexValue (hexDigit (v.toNat / 16)) = some (v.toNat / 16) := hexValue_hexDigit (by omega)
    have hlow : hexValue (hexDigit (v.toNat % 16)) = some (v.toNat % 16) := hexValue_hexDigit (by omega)
    rw [hexEncode_cons, hexOfByte_of_le hv, List.cons_append, List.singleton_append,
      hexDecode_pair hhigh hlow (hexDecode_hexEncode hb), Nat.div_add_mod, BitVec.ofNat_toNat, BitVec.setWidth_eq]

/-- Where no pair gives a byte below 16 the decoded bytes are written as the text in uppercase (R165 (d)). -/
theorem hexEncode_of_hexDecode : ∀ {t : List Nat} {b : List Byte}, hexDecode t = some b → t.length % 2 = 0 →
    (∀ v ∈ b, 16 ≤ v.toNat) → hexEncode b = t.map upperHex
  | [], b, hb, _, _ => by
    obtain rfl : [] = b := Option.some.inj hb
    rfl
  | [_], _, _, heven, _ => by simp at heven
  | c :: d :: t, b, hb, heven, hall => by
    obtain ⟨h, l, bytes, hc, hd, ht, rfl⟩ := hexDecode_pair_eq_some_iff.1 hb
    obtain ⟨hv, hbytes⟩ := List.forall_mem_cons.1 hall
    have ht2 : t.length % 2 = 0 := by simp only [List.length_cons] at heven; omega
    have hl := hexValue_lt hd
    have hhigh : (16 * h + l) / 16 = h := by omega
    have hlow : (16 * h + l) % 16 = l := by omega
    rw [hexEncode_cons, hexOfByte_of_le hv, toNat_byteOfDigits hc hd, hhigh, hlow, hexDigit_of_hexValue hc, hexDigit_of_hexValue hd,
      hexEncode_of_hexDecode ht ht2 hbytes]
    rfl

/-- The decoded bytes are written as the text in uppercase only for an even length and no byte below 16: by the lengths (R165 (d)). -/
theorem hexEncode_eq_map_upperHex_iff (hb : hexDecode t = some b) :
    hexEncode b = t.map upperHex ↔ t.length % 2 = 0 ∧ ∀ v ∈ b, 16 ≤ v.toNat := by
  refine ⟨fun h => ?_, fun ⟨heven, hall⟩ => hexEncode_of_hexDecode hb heven hall⟩
  have hlen : (hexEncode b).length = t.length := by rw [h, List.length_map]
  have hhalf := hexDecode_length hb
  have hle := hexEncode_length_le b
  exact ⟨by omega, hexEncode_length_eq_iff.1 (by omega)⟩

/-- The decoded bytes are the encoded ones only where every byte has two digits: by the lengths (R165 (c)). -/
theorem hexDecode_hexEncode_eq_iff {d : List Byte} (hd : hexDecode (hexEncode b) = some d) : d = b ↔ ∀ v ∈ b, 16 ≤ v.toNat := by
  refine ⟨fun h => hexEncode_length_eq_iff.1 ?_, fun h => Option.some.inj (hd.symm.trans (hexDecode_hexEncode h))⟩
  have hhalf := hexDecode_length hd
  have hle := hexEncode_length_le b
  rw [h] at hhalf
  omega

theorem hexDecode_hexEncode_length_lt {d : List Byte} (hd : hexDecode (hexEncode b) = some d) (h : ∃ v ∈ b, v.toNat < 16) :
    d.length < b.length := by
  have hhalf := hexDecode_length hd
  have hlt := hexEncode_length_lt h
  omega

end

/-! ## Characters and bytes -/

/-- `A2B` after `B2A` gives the bytes (R165 (a)). -/
@[simp] theorem asciiToBytes_bytesToAscii (b : List Byte) : asciiToBytes (bytesToAscii b) = b := by
  rw [asciiToBytes, bytesToAscii, List.map_map]
  exact List.map_id'' (fun v => BitVec.ofNat_toNat .. |>.trans v.setWidth_eq) b

/-- `B2A` after `A2B` gives the low bytes of the characters (R165 (b)). -/
theorem bytesToAscii_asciiToBytes (t : List Nat) : bytesToAscii (asciiToBytes t) = t.map (· % 256) := by
  simp [asciiToBytes, bytesToAscii]

/-- Low bytes are the characters themselves exactly below 256 (R165 (b)). -/
theorem map_mod_256_eq_self_iff {t : List Nat} : t.map (· % 256) = t ↔ ∀ c ∈ t, c < 256 := by
  calc t.map (· % 256) = t ↔ t.map (· % 256) = t.map id := by rw [List.map_id]
    _ ↔ ∀ c ∈ t, c % 256 = c := List.map_inj_left
    _ ↔ ∀ c ∈ t, c < 256 := by simp only [Nat.mod_eq_iff_lt (show 256 ≠ 0 by decide)]

/-- A byte extended to `CHAR_W` bits keeps its value (R6, R163). -/
theorem toNat_setWidth_charW {cfg : Config} (h : cfg.wellFormed = true) (v : Byte) : (v.setWidth cfg.charW).toNat = v.toNat := by
  have hw : 8 ≤ cfg.charW := by simpa [Config.wellFormed] using h
  exact BitVec.toNat_setWidth_of_le hw

/-! ## The commands -/

section
variable {s t : State}

/-- What fits `TXT` fits a result that is no longer (R25). -/
theorem fits_of_le_txtBuf {n : Nat} (hwf : Memory.wf s = true) (h : n ≤ s.txtBuf.length) : s.cfg.fits n = true := by
  obtain ⟨-, -, -, -, htext⟩ := (Memory.wf_iff s).1 hwf
  rw [Config.isText, Bool.and_eq_true] at htext
  exact Config.fits_mono htext.1 h

/-- A command for `TXT` that shows the code of success has replaced `TXT` by its result, which fitted (R213, R215). -/
theorem finishTxt_succeeds {r : Except Cause (List Nat)} (h : finishTxt r s = .next t) (hcode : t.code = 0#8) :
    ∃ x, r = .ok x ∧ s.cfg.fits x.length = true ∧ t = complete (s.setTxt x) := by
  obtain ⟨c, -, rfl⟩ | ⟨x, -, -, rfl⟩ | hok := (finishTxt_next s).1 h
  · exact absurd hcode (causeCode_ne_ok c)
  · exact absurd hcode (causeCode_ne_ok .overflow)
  · exact hok

theorem finishTxt_overflow {x : List Nat} (h : s.cfg.fits x.length = false) :
    finishTxt (.ok x) s = .next (takeFault .overflow s) :=
  (finishTxt_next s).2 (.inr (.inl ⟨x, rfl, h, rfl⟩))

theorem hexDecResult_eq_ok_iff {x : List Nat} {b : List Byte} : hexDecResult x = .ok b ↔ hexDecode x = some b := by
  unfold hexDecResult
  cases hexDecode x <;> simp

theorem hexDecResult_of_none {x : List Nat} (h : hexDecode x = none) : hexDecResult x = .error .badDigit := by
  rw [hexDecResult, h]

theorem exec_hexDec_of_some {b : List Byte} (hb : hexDecode s.txtBuf = some b) (hfit : s.cfg.fits b.length = true) :
    exec .hexDec s = .next (complete (s.setOut b)) := by
  rw [exec_hexDec, hexDecResult_eq_ok_iff.2 hb, finishOut_ok s hfit]

theorem exec_hexDec_of_none (h : hexDecode s.txtBuf = none) : exec .hexDec s = .next (takeFault .badDigit s) := by
  rw [exec_hexDec, hexDecResult_of_none h]
  rfl

theorem exec_hexDec_succeeds (h : exec .hexDec s = .next t) (hcode : t.code = 0#8) :
    ∃ b, hexDecode s.txtBuf = some b ∧ t = complete (s.setOut b) := by
  obtain ⟨b, hb, -, ht⟩ := finishOut_succeeds (exec_hexDec s ▸ h) hcode
  exact ⟨b, hexDecResult_eq_ok_iff.1 hb, ht⟩

theorem exec_hexEnc_of_fits (hfit : s.cfg.fits (hexEncode s.inBuf).length = true) :
    exec .hexEnc s = .next (complete (s.setTxt (hexEncode s.inBuf))) := by
  rw [exec_hexEnc, finishTxt_ok s hfit]

theorem exec_hexEnc_of_not_fits (hfit : s.cfg.fits (hexEncode s.inBuf).length = false) :
    exec .hexEnc s = .next (takeFault .overflow s) := by
  rw [exec_hexEnc, finishTxt_overflow hfit]

theorem exec_hexEnc_succeeds (h : exec .hexEnc s = .next t) (hcode : t.code = 0#8) :
    s.cfg.fits (hexEncode s.inBuf).length = true ∧ t = complete (s.setTxt (hexEncode s.inBuf)) := by
  obtain ⟨x, hx, hfit, ht⟩ := finishTxt_succeeds (exec_hexEnc s ▸ h) hcode
  obtain rfl : hexEncode s.inBuf = x := Except.ok.inj hx
  exact ⟨hfit, ht⟩

theorem exec_a2b_of_fits (hfit : s.cfg.fits s.txtBuf.length = true) :
    exec .a2b s = .next (complete (s.setOut (asciiToBytes s.txtBuf))) := by
  rw [exec_a2b, finishOut_ok s (by rwa [asciiToBytes_length])]

theorem exec_b2a_of_fits (hfit : s.cfg.fits s.inBuf.length = true) :
    exec .b2a s = .next (complete (s.setTxt (bytesToAscii s.inBuf))) := by
  rw [exec_b2a, finishTxt_ok s (by rwa [bytesToAscii_length])]

end

/-! ## One command after another -/

section
variable {s t : State}

/-- `A2B` undoes `B2A` (R165 (a)). -/
theorem exec_a2b_exec_b2a (hfit : s.cfg.fits s.inBuf.length = true) :
    ∃ t u, exec .b2a s = .next t ∧ exec .a2b t = .next u ∧ u.code = 0#8 ∧ u.outBuf = s.inBuf := by
  have htext : s.cfg.fits (bytesToAscii s.inBuf).length = true := by rwa [bytesToAscii_length]
  exact ⟨_, _, exec_b2a_of_fits hfit, exec_a2b_of_fits htext, rfl, asciiToBytes_bytesToAscii s.inBuf⟩

/-- `B2A` after `A2B` leaves the low bytes (R165 (b)). -/
theorem exec_b2a_exec_a2b (hfit : s.cfg.fits s.txtBuf.length = true) :
    ∃ t u, exec .a2b s = .next t ∧ exec .b2a (t.setIn t.outBuf) = .next u ∧ u.code = 0#8 ∧
      u.txtBuf = s.txtBuf.map (· % 256) ∧ (u.txtBuf = s.txtBuf ↔ ∀ c ∈ s.txtBuf, c < 256) := by
  have hbytes : s.cfg.fits (asciiToBytes s.txtBuf).length = true := by rwa [asciiToBytes_length]
  have hlow := bytesToAscii_asciiToBytes s.txtBuf
  refine ⟨_, _, exec_a2b_of_fits hfit, exec_b2a_of_fits hbytes, rfl, hlow, ?_⟩
  exact hlow ▸ map_mod_256_eq_self_iff

/-- `HEX_DEC` after a successful `HEX_ENC` (R165 (c)). -/
theorem exec_hexDec_exec_hexEnc (h : exec .hexEnc s = .next t) (hcode : t.code = 0#8) :
    ∃ u, exec .hexDec t = .next u ∧ u.code = 0#8 ∧ (u.outBuf = s.inBuf ↔ ∀ v ∈ s.inBuf, 16 ≤ v.toNat) ∧
      ((∃ v ∈ s.inBuf, v.toNat < 16) → t.txtBuf.length < 2 * s.inBuf.length ∧ u.outBuf.length < s.inBuf.length) := by
  obtain ⟨hfit, rfl⟩ := exec_hexEnc_succeeds h hcode
  obtain ⟨d, hd⟩ := exists_hexDecode_hexEncode s.inBuf
  have hbytes : s.cfg.fits d.length = true := Config.fits_mono hfit (by rw [hexDecode_length hd]; omega)
  exact ⟨_, exec_hexDec_of_some hd hbytes, rfl, hexDecode_hexEncode_eq_iff hd,
    fun hshort => ⟨hexEncode_length_lt hshort, hexDecode_hexEncode_length_lt hd hshort⟩⟩

/-- `HEX_ENC` after a successful `HEX_DEC` (R165 (d)). -/
theorem exec_hexEnc_exec_hexDec (hwf : Memory.wf s = true) (h : exec .hexDec s = .next t) (hcode : t.code = 0#8) :
    ∃ u, exec .hexEnc (t.setIn t.outBuf) = .next u ∧ u.code = 0#8 ∧
      (u.txtBuf = s.txtBuf.map upperHex ↔ s.txtBuf.length % 2 = 0 ∧ ∀ v ∈ t.outBuf, 16 ≤ v.toNat) := by
  obtain ⟨b, hb, rfl⟩ := exec_hexDec_succeeds h hcode
  have hle := hexEncode_length_le b
  have hhalf := hexDecode_length hb
  have hfit : s.cfg.fits (hexEncode b).length = true := fits_of_le_txtBuf hwf (by omega)
  exact ⟨_, exec_hexEnc_of_fits hfit, rfl, hexEncode_eq_map_upperHex_iff hb⟩

/-- Sixteen bytes give 32 characters, or fewer where one is below 16 (R165 (e)). -/
theorem exec_hexEnc_of_key (h : exec .hexEnc s = .next t) (hcode : t.code = 0#8) (hkey : s.inBuf.length = 16) :
    ((∀ v ∈ s.inBuf, 16 ≤ v.toNat) → t.txtBuf.length = 32) ∧ ((∃ v ∈ s.inBuf, v.toNat < 16) → t.txtBuf.length < 32) := by
  obtain ⟨-, rfl⟩ := exec_hexEnc_succeeds h hcode
  have hfull : 2 * s.inBuf.length = 32 := by rw [hkey]
  exact ⟨fun hall => hfull ▸ hexEncode_length_eq_iff.2 hall, fun hshort => hfull ▸ hexEncode_length_lt hshort⟩

end

/-! ## The statements -/

/-- Settles O47: decoding has a result exactly where every examined character is a digit, and byte `i` is that of its pair. -/
theorem hexDecodesPairsOfDigits : Obligations.HexDecodesPairsOfDigits := by
  unfold Obligations.HexDecodesPairsOfDigits
  refine ⟨fun s hwf hdigits => ?_, fun s hbad => exec_hexDec_of_none (hexDecode_eq_none_iff.2 hbad)⟩
  obtain ⟨b, hb⟩ := exists_hexDecode_iff.2 hdigits
  have hlen := hexDecode_length hb
  exact ⟨b, exec_hexDec_of_some hb (fits_of_le_txtBuf hwf (by omega)), hlen, fun _ _ _ hi hhigh hlow => hexDecode_getD hb hi hhigh hlow⟩

/-- Settles O48: one lemma for each clause. -/
theorem hexDigitsReadBack : Obligations.HexDigitsReadBack := by
  unfold Obligations.HexDigitsReadBack
  exact ⟨fun _ hn => hexValue_hexDigit hn, fun _ hn => hexDigit_of_le_nine hn,
    fun _ h10 hn => ⟨hexDigit_of_ten_le h10, hexValue_lowercase h10 hn⟩, fun _ => hexValue_eq_none_iff⟩

/-- Settles O49: the digits of the nibbles are the text that `HEX_ENC` writes, so its length decides the outcome. -/
theorem hexEncodesWithoutLeadingZero : Obligations.HexEncodesWithoutLeadingZero := by
  unfold Obligations.HexEncodesWithoutLeadingZero
  intro s t ht
  obtain rfl : t = hexEncode s.inBuf := by rw [ht, hexEncode, funext hexOfByte_eq_nibbles]
  exact ⟨hexEncode_length_add_countP s.inBuf, fun hfit => exec_hexEnc_of_fits hfit, fun hfit => exec_hexEnc_of_not_fits hfit⟩

/-- Settles O50: byte `i` is character `i` cut to eight bits. -/
theorem a2bKeepsTheLowByte : Obligations.A2bKeepsTheLowByte := by
  unfold Obligations.A2bKeepsTheLowByte
  intro s hwf
  refine ⟨_, exec_a2b_of_fits (fits_of_le_txtBuf hwf le_rfl), asciiToBytes_length _, fun i c hc => ?_⟩
  simp [asciiToBytes, hc]

/-- Settles O51: with eight bits or more a character holds the whole byte. -/
theorem b2aZeroExtends : Obligations.B2aZeroExtends := by
  unfold Obligations.B2aZeroExtends
  intro s hwf hcfg
  refine ⟨_, exec_b2a_of_fits (fits_of_le_inBuf hwf le_rfl), bytesToAscii_length _, fun i v hv => ?_, bytesToAscii_lt_256 s.inBuf⟩
  simp [bytesToAscii, hv, toNat_setWidth_charW hcfg]

/-- Settles O52: one lemma for each of R165's laws. -/
theorem textLaws : Obligations.TextLaws := by
  unfold Obligations.TextLaws
  intro s hwf _
  exact ⟨exec_a2b_exec_b2a (fits_of_le_inBuf hwf le_rfl), exec_b2a_exec_a2b (fits_of_le_txtBuf hwf le_rfl),
    fun _ h hcode => exec_hexDec_exec_hexEnc h hcode, fun _ h hcode => exec_hexEnc_exec_hexDec hwf h hcode,
    fun _ h hcode hkey => exec_hexEnc_of_key h hcode hkey⟩

end Sys2Proof.Machine
end

section
/-! SUPPORT. The host's keys (46_host_pipeline.md R183, R191, R192): the word adjustment of the Android key routine, the classification of a
cleaned identifier, and a key's text read back. -/

namespace Sys2Proof.Machine

/-! ## The adjustment of the key words -/

/-- `0x7FFFFFFF - x` keeps the top bit and complements the 31 bits below it (R192). -/
theorem maxSigned_sub_eq_xor (x : Word) : 0x7FFFFFFF#32 - x = x ^^^ 0x7FFFFFFF#32 := by
  obtain ⟨sign, low, rfl⟩ : ∃ (sign : Bool) (low : BitVec 31), x = BitVec.cons sign low :=
    ⟨x.msb, x.setWidth 31, (BitVec.cons_msb_setWidth x).symm⟩
  have hmax : 0x7FFFFFFF#32 = BitVec.cons false (BitVec.allOnes 31) := by decide
  have hflip : BitVec.cons sign low ^^^ 0x7FFFFFFF#32 = BitVec.cons sign (~~~low) := by
    rw [hmax, BitVec.cons_xor_cons, Bool.xor_false, BitVec.xor_allOnes]
  have hlow := low.isLt
  apply BitVec.eq_of_toNat_eq
  rw [hflip, BitVec.toNat_sub, BitVec.toNat_cons', BitVec.toNat_cons', BitVec.toNat_not, BitVec.toNat_ofNat]
  cases sign
  · rw [Bool.toNat_false]; omega
  · rw [Bool.toNat_true]; omega

/-- What a step makes of a word: its low 31 bits are flipped where the step finds a sign. -/
def flipWhere (sign : Bool) (x : Word) : Word := if sign then x ^^^ 0x7FFFFFFF#32 else x

@[simp] theorem msb_flipWhere (sign : Bool) (x : Word) : (flipWhere sign x).msb = x.msb := by
  have hmax : (0x7FFFFFFF#32).msb = false := by decide
  cases sign
  · rfl
  · exact BitVec.msb_xor.trans (by rw [hmax, Bool.xor_false])

theorem adjustKeyWord_eq_set (w : List Word) (i : Nat) :
    adjustKeyWord w i = w.set i (flipWhere (w.getD (i % 3) 0#32).msb (w.getD i 0#32)) := by
  unfold adjustKeyWord flipWhere
  split_ifs
  · rw [maxSigned_sub_eq_xor]
  · rw [set_getD_self]

/-- Step 3 finds at word 0 what step 0 left there, which has the sign of the original word. -/
theorem adjustKeyWords_of_four (a b c d : Word) :
    adjustKeyWords [a, b, c, d] = [flipWhere a.msb a, flipWhere b.msb b, flipWhere c.msb c, flipWhere a.msb d] := by
  simp [adjustKeyWords, List.range_succ, adjustKeyWord_eq_set]

/-! ## The identifier -/

section
variable {md5 : List Byte → Key} {suffix a b t clean : List Nat}

theorem deriveOuterKey_congr (h : cleanIdentifier a = cleanIdentifier b) :
    deriveOuterKey md5 suffix a = deriveOuterKey md5 suffix b := by simp only [deriveOuterKey, h]

theorem cleanIdentifier_append (a b : List Nat) : cleanIdentifier (a ++ b) = cleanIdentifier a ++ cleanIdentifier b :=
  List.filter_append a b

theorem cleanIdentifier_insert {x : List Nat} (hx : ∀ c ∈ x, hexValue c = none) :
    cleanIdentifier (a ++ x ++ b) = cleanIdentifier (a ++ b) := by
  have hstripped : cleanIdentifier x = [] := List.filter_eq_nil_iff.2 fun c hc => by simp [hx c hc]
  simp only [cleanIdentifier_append, hstripped, List.append_nil]

theorem cleanIdentifier_of_digits (h : ∀ c ∈ t, hexValue c ≠ none) : cleanIdentifier t = t :=
  List.filter_eq_self.2 fun c hc => Option.isSome_iff_ne_none.2 (h c hc)

theorem hexValue_ne_none_of_mem_cleanIdentifier {c : Nat} (h : c ∈ cleanIdentifier t) : hexValue c ≠ none :=
  Option.isSome_iff_ne_none.1 (List.mem_filter.1 h).2

theorem classifyIdentifier_eq_gluid_iff : classifyIdentifier clean = .gluid ↔ 32 ≤ clean.length := by
  unfold classifyIdentifier
  split_ifs <;> simp_all

theorem classifyIdentifier_eq_unrecognized_iff :
    classifyIdentifier clean = .unrecognized ↔ clean.length < 32 ∧ clean.length ≠ 14 ∧ clean.length ≠ 16 ∧
      (clean.length = 15 ∨ clean.length = 18 → allDigits clean = false) := by
  unfold classifyIdentifier
  grind

/-- Digits decode, whatever their number (R160). -/
theorem exists_hexDecode_of_digits (h : ∀ c ∈ t, hexValue c ≠ none) : ∃ b, hexDecode t = some b := by
  refine exists_hexDecode_iff.2 fun i hi => ?_
  have hlt : i < t.length := by omega
  rw [List.getD_eq_getElem _ _ hlt]
  exact h _ (List.getElem_mem hlt)

theorem deriveOuterKey_of_gluid (h : 32 ≤ (cleanIdentifier t).length) :
    deriveOuterKey md5 suffix t = gluidKey (cleanIdentifier t) := by
  rw [deriveOuterKey, classifyIdentifier_eq_gluid_iff.2 h]

/-- Only an unrecognized identifier has no key: the cleaned characters of a GLUID are digits (R191). -/
theorem deriveOuterKey_eq_none_iff :
    deriveOuterKey md5 suffix t = none ↔ classifyIdentifier (cleanIdentifier t) = .unrecognized := by
  unfold deriveOuterKey
  cases hkind : classifyIdentifier (cleanIdentifier t) with
  | gluid =>
    obtain ⟨b, hb⟩ := exists_hexDecode_of_digits (t := (cleanIdentifier t).take 32) fun c hc =>
      hexValue_ne_none_of_mem_cleanIdentifier (List.mem_of_mem_take hc)
    simp [gluidKey, hb]
  | imei | meidHex | meidDecimal | androidInstallId | unrecognized => simp

end

/-! ## The text of a key -/

/-- A byte as two digits, leading zero kept (R183). -/
def twoDigits (v : Byte) : List Nat := [hexDigit (v.toNat / 16), hexDigit (v.toNat % 16)]

theorem keyText_eq_flatMap (k : Key) : keyText k = k.toList.flatMap twoDigits := rfl

theorem hexValue_twoDigits (v : Byte) :
    hexValue (hexDigit (v.toNat / 16)) = some (v.toNat / 16) ∧ hexValue (hexDigit (v.toNat % 16)) = some (v.toNat % 16) := by
  have hv : v.toNat < 256 := v.isLt
  exact ⟨hexValue_hexDigit (by omega), hexValue_hexDigit (by omega)⟩

/-- Two digits for every byte decode to the bytes, with no condition on them. -/
theorem hexDecode_flatMap_twoDigits : ∀ b : List Byte, hexDecode (b.flatMap twoDigits) = some b
  | [] => rfl
  | v :: b => by
    obtain ⟨hhigh, hlow⟩ := hexValue_twoDigits v
    refine (hexDecode_pair hhigh hlow (hexDecode_flatMap_twoDigits b)).trans ?_
    rw [Nat.div_add_mod, BitVec.ofNat_toNat, BitVec.setWidth_eq]

theorem keyText_length (k : Key) : (keyText k).length = 32 := by
  simp [keyText_eq_flatMap, List.length_flatMap, twoDigits]

theorem cleanIdentifier_keyText (k : Key) : cleanIdentifier (keyText k) = keyText k := by
  refine cleanIdentifier_of_digits fun c hc => ?_
  obtain ⟨v, -, hcv⟩ := List.mem_flatMap.1 hc
  obtain ⟨hhigh, hlow⟩ := hexValue_twoDigits v
  obtain rfl | rfl := List.mem_pair.1 hcv
  · exact hhigh ▸ Option.some_ne_none _
  · exact hlow ▸ Option.some_ne_none _

/-- The text of a key is a GLUID that decodes to it (R191, R196). -/
theorem deriveOuterKey_keyText (md5 : List Byte → Key) (suffix : List Nat) (k : Key) :
    deriveOuterKey md5 suffix (keyText k) = some k := by
  have hclean := cleanIdentifier_keyText k
  have hlen := keyText_length k
  rw [deriveOuterKey_of_gluid (by rw [hclean, hlen]), hclean, gluidKey, ← hlen, List.take_length, keyText_eq_flatMap,
    hexDecode_flatMap_twoDigits, Option.map_some, keyFrom_of_key]

/-! ## The statements -/

/-- Settles O54: a step keeps the sign of the word it replaces, so the last step still finds the original sign of word 0. -/
theorem keyWordAdjustmentReadsOriginalSigns : Obligations.KeyWordAdjustmentReadsOriginalSigns := by
  unfold Obligations.KeyWordAdjustmentReadsOriginalSigns
  refine ⟨maxSigned_sub_eq_xor, fun w hw => ?_⟩
  obtain ⟨a, b, c, d, rfl⟩ := List.length_eq_four.1 hw
  simp only [adjustKeyWords_of_four, List.mapIdx_cons, List.mapIdx_nil]
  rfl

/-- Settles O58: the derivation sees the cleaned string alone, and only its class `unrecognized` has no key. -/
theorem outerKeyOfAnIdentifier : Obligations.OuterKeyOfAnIdentifier := by
  unfold Obligations.OuterKeyOfAnIdentifier
  intro md5 suffix
  exact ⟨fun _ _ h => deriveOuterKey_congr h, fun _ _ _ hx => deriveOuterKey_congr (cleanIdentifier_insert hx),
    fun _ => deriveOuterKey_eq_none_iff.trans classifyIdentifier_eq_unrecognized_iff,
    fun k => ⟨keyText_length k, deriveOuterKey_keyText md5 suffix k⟩⟩

end Sys2Proof.Machine
end

section
/-! SUPPORT. The layers of the container there and back (46_host_pipeline.md R181, R184 to R189, R194, R196, R197): what the host encrypts under
a key decrypts to the same bytes, and each operation of `encode` and `decode` under unbounded buffers. -/

namespace Sys2Proof.Machine

/-! ## The bytes of the outer layer -/

theorem outerPadding_length (c : Nat) : (outerPadding c).length = 4 - c % 4 := by
  rw [outerPadding, List.length_replicate, paddedLength]
  omega

theorem documentPadding_length (n : Nat) : (documentPadding n).length = (4 - n % 4) % 4 := List.length_replicate

/-- What the host encrypts under the outer key: the compressed buffer, its checksum and the padding (R189). -/
def outerPlainBytes (cfg : Config) (buffer checksum : List Byte) : List Byte :=
  deflateFn cfg buffer ++ checksum ++ outerPadding (deflateFn cfg buffer).length

theorem outerPlainBytes_length {cfg : Config} {buffer checksum : List Byte} (h : checksum.length = 4) :
    (outerPlainBytes cfg buffer checksum).length = paddedLength (deflateFn cfg buffer).length := by
  rw [outerPlainBytes, List.length_append, List.length_append, outerPadding_length, h, paddedLength]
  omega

/-- The inflater stops at the end of the compressed buffer (R115). -/
theorem inflateWrapped_outerPlainBytes (cfg : Config) (buffer checksum : List Byte) :
    ∃ left, inflateWrapped cfg.deflateWrap (outerPlainBytes cfg buffer checksum) = some (buffer, left) := by
  rw [outerPlainBytes, List.append_assoc]
  exact ⟨_, trailingBytesAreIgnored _ _ _ _ _ (inflateWrapped_deflateFn cfg buffer)⟩

/-! ## The round trip of the cipher -/

/-- Whole words come back from the cipher under the same key, and the encrypted bytes are as many (R79). -/
theorem decryptResult_encryptResult {cfg : Config} {data key : List Byte} (hk : 16 ≤ key.length) (hd : data.length % 4 = 0)
    (hd1 : cfg.xxteaD1 = .identity ∨ data.length ≠ 4) :
    ∃ cipher, encryptResult cfg data key = .ok cipher ∧ decryptResult cfg cipher key = .ok data ∧ cipher.length = data.length := by
  obtain ⟨cipher, hencrypt, hle, hdecrypt⟩ := cipherResult_roundTrip (encryptWords_length cfg)
    (fun g _ hw => decryptWords_encryptWords cfg g hw) hk (.inl hd) (hd1.imp_right fun h => by omega)
  rw [hd, Nat.sub_zero, List.take_length] at hdecrypt
  exact ⟨cipher, hencrypt, hdecrypt, le_antisymm hle (cipherResult_length_le (decryptWords_length cfg) hdecrypt)⟩

/-- The outer layer always has two words or more (R189). -/
theorem decryptResult_encryptResult_outer (cfg : Config) (buffer : List Byte) {checksum key : List Byte} (hsum : checksum.length = 4)
    (hk : 16 ≤ key.length) :
    ∃ cipher, encryptResult cfg (outerPlainBytes cfg buffer checksum) key = .ok cipher ∧
      decryptResult cfg cipher key = .ok (outerPlainBytes cfg buffer checksum) ∧
      cipher.length = paddedLength (deflateFn cfg buffer).length := by
  have hlen := outerPlainBytes_length (cfg := cfg) (buffer := buffer) hsum
  rw [← hlen]
  rw [paddedLength] at hlen
  exact decryptResult_encryptResult hk (by omega) (.inr (by omega))

/-! ## The parameters stay -/

section
variable {s t u : State} {i : Instr} {position : PipelinePosition} {writes : List HostAction}

theorem issueCommand_keeps_cfg {c : Word} (h : issueCommand c s = .next t) : t.cfg = s.cfg := by
  cases hc : decode c with
  | ok i =>
    rw [issueCommand_of_decode_ok hc] at h
    exact (exec_keeps_cfg h).trans (State.setCmd_cfg s c)
  | error e =>
    rw [issueCommand_of_decode_error hc] at h
    cases h
    rfl

theorem hostReplace_keeps_cfg {n : Nat} (h : hostReplace s n u = .next t) (hu : u.cfg = s.cfg) : t.cfg = s.cfg := by
  obtain ⟨-, rfl⟩ := hostReplace_next.1 h
  exact hu

/-- No host action changes the parameters (R6). -/
theorem perform_keeps_cfg {a : HostAction} (h : perform a s = .next t) : t.cfg = s.cfg := by
  cases a with
  | writeIn _ | writeKey _ | writeWrd _ | copyOutToIn _ | appendIn _ | copyOutToKey => exact hostReplace_keeps_cfg h rfl
  | writeTxt x =>
    obtain ⟨-, rfl⟩ := hostReplaceTxt_next.1 h
    rfl
  | writeOffset _ | writeValue _ | writeStatus _ | reset => cases h; rfl
  | writeCmd c => exact issueCommand_keeps_cfg h

theorem runActions_keeps_cfg : ∀ {as : List HostAction} {s : State}, runActions as s = .next t → t.cfg = s.cfg
  | [], s, h => by cases h; rfl
  | a :: as, s, h => by
    unfold runActions at h
    cases ha : perform a s with
    | next u =>
      rw [ha] at h
      exact (runActions_keeps_cfg h).trans (perform_keeps_cfg ha)
    | fault f => rw [ha] at h; cases h
    | refused r => rw [ha] at h; cases h

theorem hostCommand_keeps_cfg (h : hostCommand writes i position s = .ok t) : t.cfg = s.cfg := by
  unfold hostCommand at h
  split at h
  next u hrun =>
    split_ifs at h
    cases h
    exact runActions_keeps_cfg hrun
  all_goals cases h

theorem hostParse_keeps_cfg {offset : Nat} (h : hostParse writes offset s = .ok t) : t.cfg = s.cfg := by
  unfold hostParse at h
  split_ifs at h
  exact hostCommand_keeps_cfg h

theorem inflatePayload_keeps_cfg {bytes out : List Byte} (h : inflatePayload bytes s = .ok (out, t)) : t.cfg = s.cfg := by
  unfold inflatePayload at h
  cases hcommand : hostCommand [.writeIn bytes] .inflate .outerStage s with
  | error e => rw [hcommand] at h; cases h
  | ok u =>
    rw [hcommand] at h
    cases h
    exact hostCommand_keeps_cfg hcommand

end

/-! ## One command under unbounded buffers -/

section
variable {s t : State} {i : Instr} {position : PipelinePosition} {writes : List HostAction} {key out : List Byte}

theorem perform_copyOutToIn_of_fits {tail : List Byte} (h : s.cfg.fits (s.outBuf ++ tail).length = true) :
    perform (.copyOutToIn tail) s = .next (s.setIn (s.outBuf ++ tail)) := hostReplace_of_fits h

theorem runActions_writeIn (hunbounded : s.cfg.bufMax = none) (b : List Byte) : runActions [.writeIn b] s = .next (s.setIn b) :=
  runActions_cons_of_next (perform_writeIn_of_fits (Config.fits_of_unbounded hunbounded _)) []

theorem runActions_copyOutToIn (hunbounded : s.cfg.bufMax = none) (tail : List Byte) :
    runActions [.copyOutToIn tail] s = .next (s.setIn (s.outBuf ++ tail)) :=
  runActions_cons_of_next (perform_copyOutToIn_of_fits (Config.fits_of_unbounded hunbounded _)) []

theorem runActions_writeKey (hunbounded : s.cfg.bufMax = none) (hwrites : runActions writes s = .next t) (key : List Byte) :
    runActions (writes ++ [.writeKey key]) s = .next (t.setKey key) := by
  have hfit : t.cfg.fits key.length = true := Config.fits_of_unbounded (runActions_keeps_cfg hwrites ▸ hunbounded) _
  rw [runActions_append, hwrites]
  exact runActions_cons_of_next (perform_writeKey_of_fits hfit) []

/-- A command whose result for `OUT` is no fault succeeds, and `IN` stays as the writes left it. -/
theorem hostCommand_putsOut (hunbounded : s.cfg.bufMax = none) (hwrites : runActions writes s = .next t)
    (hexec : exec i (t.setCmd (encode i)) = finishOut (.ok out) (t.setCmd (encode i))) :
    ∃ u, hostCommand writes i position s = .ok u ∧ u.outBuf = out ∧ u.inBuf = t.inBuf ∧ u.cfg = s.cfg := by
  have hcfg : t.cfg = s.cfg := runActions_keeps_cfg hwrites
  have hfit : (t.setCmd (encode i)).cfg.fits out.length = true := Config.fits_of_unbounded (hcfg ▸ hunbounded) _
  exact ⟨_, hostCommand_completes hwrites (hexec.trans (finishOut_ok _ hfit)), rfl, rfl, hcfg⟩

/-- `XXTEA_ENC` of `OUT` with bytes behind it (R188, R189). -/
theorem hostCommand_xxteaEnc {tail : List Byte} (hunbounded : s.cfg.bufMax = none)
    (h : encryptResult s.cfg (s.outBuf ++ tail) key = .ok out) :
    ∃ u, hostCommand [.copyOutToIn tail, .writeKey key] .xxteaEnc position s = .ok u ∧ u.outBuf = out ∧ u.cfg = s.cfg := by
  have hwrites := runActions_writeKey hunbounded (runActions_copyOutToIn hunbounded tail) key
  obtain ⟨u, hu, hout, -, hcfg⟩ := hostCommand_putsOut (position := position) hunbounded hwrites
    ((exec_xxteaEnc _).trans (congrArg (finishOut · _) h))
  exact ⟨u, hu, hout, hcfg⟩

/-- `XXTEA_DEC` of bytes that the host writes (R186, R187). -/
theorem hostCommand_xxteaDec {b : List Byte} (hunbounded : s.cfg.bufMax = none) (h : decryptResult s.cfg b key = .ok out) :
    ∃ u, hostCommand [.writeIn b, .writeKey key] .xxteaDec position s = .ok u ∧ u.outBuf = out ∧ u.cfg = s.cfg := by
  have hwrites := runActions_writeKey hunbounded (runActions_writeIn hunbounded b) key
  obtain ⟨u, hu, hout, -, hcfg⟩ := hostCommand_putsOut (position := position) hunbounded hwrites
    ((exec_xxteaDec _).trans (congrArg (finishOut · _) h))
  exact ⟨u, hu, hout, hcfg⟩

end

/-! ## The inner layer -/

section
variable {s : State} {document : List Nat} {cipher plain : List Byte}

/-- What the host encrypts under the inner key: the document's bytes and the padding (R188). -/
def innerPlainBytes (document : List Nat) : List Byte := asciiToBytes document ++ documentPadding document.length

theorem innerPlainBytes_length (document : List Nat) :
    (innerPlainBytes document).length = document.length + (4 - document.length % 4) % 4 := by
  rw [innerPlainBytes, List.length_append, asciiToBytes_length, documentPadding_length]

theorem bytesToAscii_innerPlainBytes (document : List Nat) :
    bytesToAscii (innerPlainBytes document) = document.map (· % 256) ++ bytesToAscii (documentPadding document.length) := by
  rw [← bytesToAscii_asciiToBytes]
  exact List.map_append

theorem decryptResult_encryptResult_inner {cfg : Config} {key : List Byte} (hk : 16 ≤ key.length)
    (hd1 : cfg.xxteaD1 = .identity ∨ 4 < document.length) :
    ∃ cipher, encryptResult cfg (innerPlainBytes document) key = .ok cipher ∧
      decryptResult cfg cipher key = .ok (innerPlainBytes document) ∧ cipher.length = (innerPlainBytes document).length := by
  have hlen := innerPlainBytes_length document
  exact decryptResult_encryptResult hk (by omega) (hd1.imp_right fun h => by omega)

/-- `encryptInnerLayer` yields what the cipher makes of the document's bytes (R188). -/
theorem encryptInner_of_ok (hunbounded : s.cfg.bufMax = none) (hchars : ∀ c ∈ document, c < 2 ^ s.cfg.charW)
    (h : encryptResult s.cfg (innerPlainBytes document) innerKey.toList = .ok cipher) :
    ∃ t, encryptInner document s = .ok (cipher, t) ∧ t.cfg = s.cfg := by
  have htext : perform (.writeTxt document) s = .next (s.setTxt document) :=
    (hostReplaceTxt_of_chars hchars).trans (hostReplace_of_fits (Config.fits_of_unbounded hunbounded _))
  obtain ⟨t, ht, htout, -, htcfg⟩ := hostCommand_putsOut (position := .elsewhere) hunbounded
    (runActions_cons_of_next htext []) (exec_a2b _)
  have hbytes : t.outBuf = asciiToBytes document := htout
  have hlen : t.outBuf.length = document.length := by rw [hbytes, asciiToBytes_length]
  obtain ⟨u, hu, huout, hucfg⟩ := hostCommand_xxteaEnc (position := .elsewhere) (s := t) (tail := documentPadding document.length)
    (htcfg ▸ hunbounded) (by rw [hbytes, htcfg]; exact h)
  refine ⟨u, ?_, hucfg.trans htcfg⟩
  simp only [encryptInner, ht, Except.bind, hlen, hu, huout]

/-- `decryptInnerLayer`'s commands yield one character for each decrypted byte (R187). -/
theorem decryptDocument_of_ok (hunbounded : s.cfg.bufMax = none) (h : decryptResult s.cfg cipher innerKey.toList = .ok plain) :
    ∃ t, decryptDocument cipher s = .ok (bytesToAscii plain, t) := by
  obtain ⟨t, ht, htout, htcfg⟩ := hostCommand_xxteaDec (position := .elsewhere) hunbounded h
  have hcopy := runActions_copyOutToIn (htcfg ▸ hunbounded) []
  rw [htout, List.append_nil] at hcopy
  have hb2a := hostCommand_completes (position := .elsewhere) hcopy
    (exec_b2a_of_fits (Config.fits_of_unbounded (htcfg ▸ hunbounded) _))
  simp only [decryptDocument, ht, Except.bind, hb2a]
  exact ⟨_, rfl⟩

end

/-! ## The outer layer -/

section
variable {s : State} {buffer cipher : List Byte} {key : Key}

/-- The container of an encrypted buffer (R189). -/
def outerContainer (cfg : Config) (buffer cipher : List Byte) : Container :=
  ⟨BitVec.ofNat 32 buffer.length, BitVec.ofNat 32 ((deflateFn cfg buffer).length + 4), BitVec.ofNat 32 cipher.length, cipher, 1#32⟩

/-- `encryptOuterLayer` yields the container of what the cipher makes of the compressed, checksummed and padded buffer (R189). -/
theorem encryptOuter_of_ok (hunbounded : s.cfg.bufMax = none)
    (h : encryptResult s.cfg (outerPlainBytes s.cfg buffer (bytesBe32 (crcOf buffer))) key.toList = .ok cipher) :
    ∃ t, encryptOuter key buffer s = .ok (outerContainer s.cfg buffer cipher, t) := by
  obtain ⟨t, ht, htout, htin, htcfg⟩ := hostCommand_putsOut (position := .elsewhere) hunbounded
    (runActions_writeIn hunbounded buffer) (exec_crc32 _)
  obtain ⟨u, hu, huout, -, hucfg⟩ := hostCommand_putsOut (position := .elsewhere) (htcfg ▸ hunbounded) (runActions_nil t)
    (exec_deflate _)
  have hsum : t.outBuf = bytesBe32 (crcOf buffer) := htout
  have hin : t.inBuf = buffer := htin
  have hstream : u.outBuf = deflateFn s.cfg buffer := by rw [huout, State.setCmd_cfg, State.setCmd_inBuf, htcfg, hin]
  have hcfg : u.cfg = s.cfg := hucfg.trans htcfg
  obtain ⟨v, hv, hvout, -⟩ := hostCommand_xxteaEnc (position := .elsewhere) (s := u)
    (tail := t.outBuf ++ outerPadding (deflateFn s.cfg buffer).length) (hcfg ▸ hunbounded)
    (by rw [hcfg, hstream, hsum, ← List.append_assoc]; exact h)
  refine ⟨v, ?_⟩
  simp only [encryptOuter, ht, hu, Except.bind, hstream, hv, hvout, outerContainer]

theorem ofNat32_ne_zero {n : Nat} (hpos : 0 < n) (hlt : n < 2 ^ 32) : BitVec.ofNat 32 n ≠ 0#32 := fun h => by
  have hn : n % 2 ^ 32 = 0 := congrArg BitVec.toNat h
  omega

/-- Under lengths that fit their fields the host's own container passes the sanity check (R185). -/
theorem sanityCheck_outerContainer {cfg : Config} (hpos : 0 < buffer.length) (hbuffer : buffer.length < 2 ^ 32)
    (hstream : (deflateFn cfg buffer).length + 4 < 2 ^ 32) (hcipher : cipher.length < 2 ^ 32) :
    sanityCheck (outerContainer cfg buffer cipher) = true := by
  have hsize : (BitVec.ofNat 32 cipher.length).toNat = cipher.length := Nat.mod_eq_of_lt hcipher
  simp [sanityCheck, outerContainer, ofNat32_ne_zero hpos hbuffer, ofNat32_ne_zero (Nat.succ_pos _) hstream, hsize]

theorem inflatePayload_of_unbounded {plain out left : List Byte} (hunbounded : s.cfg.bufMax = none)
    (h : inflateWrapped s.cfg.deflateWrap plain = some (out, left)) :
    ∃ t, inflatePayload plain s = .ok (out, t) ∧ t.cfg = s.cfg := by
  obtain ⟨t, ht⟩ := inflatePayload_of_fits (Config.fits_of_unbounded hunbounded _) h (Config.fits_of_unbounded hunbounded _)
  exact ⟨t, ht, inflatePayload_keeps_cfg ht⟩

end

/-! ## The file -/

section
variable {s t : State} {c : Container} {b : List Byte} {offset : Nat} {writes : List HostAction}

/-- A field inside a file of fewer than `2^32` bytes is read, and `IN` and the parameters stay (R197). -/
theorem hostParse_reads (hwrites : runActions writes s = .next t) (hin : t.inBuf = b) (ho : offset + 4 ≤ b.length)
    (hb : b.length < 2 ^ 32) :
    ∃ u, hostParse writes offset s = .ok u ∧ u.value = wordAt b offset ∧ u.inBuf = b ∧ u.cfg = s.cfg := by
  subst hin
  obtain ⟨u, hu, hvalue, hin⟩ := hostParse_inRange hwrites (by omega) ho
  exact ⟨u, hu, hvalue, hin, hostParse_keeps_cfg hu⟩

/-- The framing gives back a container whose payload has the length that it states and whose offsets fit `OFFSET` (R184, R197). -/
theorem frameFile_of_size (hunbounded : s.cfg.bufMax = none) (hsize : c.encryptedSize.toNat = c.payload.length)
    (hfile : (containerFile c).length < 2 ^ 32) : ∃ u, frameFile (containerFile c) s = .ok (c, u) ∧ u.cfg = s.cfg := by
  have hlen := containerFile_length c
  obtain ⟨hv0, hv1, hv2⟩ := wordAt_containerFile_header c
  have hv3 := wordAt_containerFile_trailer c
  obtain ⟨s0, h0, hs0, hin0, hcfg0⟩ := hostParse_reads (offset := 0) (runActions_writeIn hunbounded _)
    (State.setIn_inBuf s (containerFile c)) (by omega) hfile
  obtain ⟨s1, h1, hs1, hin1, hcfg1⟩ := hostParse_reads (offset := 4) (runActions_nil s0) hin0 (by omega) hfile
  obtain ⟨s2, h2, hs2, hin2, hcfg2⟩ := hostParse_reads (offset := 8) (runActions_nil s1) hin1 (by omega) hfile
  obtain ⟨s3, h3, hs3, -, hcfg3⟩ := hostParse_reads (offset := 12 + c.payload.length) (runActions_nil s2) hin2 (by omega) hfile
  refine ⟨s3, ?_, by rw [hcfg3, hcfg2, hcfg1, hcfg0]⟩
  simp only [frameFile, h0, h1, h2, h3, Except.bind, hs0, hs1, hs2, hs3, hv0, hv1, hv2, hv3, hsize, memRead_containerFile]

theorem sanityCheck_size (h : sanityCheck c = true) : c.encryptedSize.toNat = c.payload.length := by
  by_contra hsize
  rw [sanityCheck_eq_false (.inr hsize)] at h
  cases h

theorem checkSanity_of_sane {keys : Option KeyPair} (hunbounded : s.cfg.bufMax = none) (hsane : sanityCheck c = true)
    (hfile : (containerFile c).length < 2 ^ 32) :
    ∃ u, checkSanity ⟨keys, .raw (containerFile c)⟩ s = .ok (⟨keys, .sanityChecked c⟩, u) ∧ u.cfg = s.cfg := by
  obtain ⟨u, hu, hcfg⟩ := frameFile_of_size hunbounded (sanityCheck_size hsane) hfile
  refine ⟨u, ?_, hcfg⟩
  simp only [checkSanity, hu, Except.bind, hsane, if_true]

end

/-! ## There and back -/

section
variable {s : State} {c : Container} {key : Key} {document : List Nat} {buffer bytes left plain cipher : List Byte}

/-- The host's decoding of a sane container, layer by layer (R186, R187, R197). -/
theorem hostDecode_of_layers (hunbounded : s.cfg.bufMax = none) (hsane : sanityCheck c = true)
    (hfile : (containerFile c).length < 2 ^ 32) (houter : decryptResult s.cfg c.payload key.toList = .ok bytes)
    (hinflate : inflateWrapped s.cfg.deflateWrap bytes = some (buffer, left))
    (hinner : decryptResult s.cfg buffer innerKey.toList = .ok plain) :
    ∃ v, hostDecode key (containerFile c) s = .ok (bytesToAscii plain, v) := by
  have hfits := Config.fits_of_unbounded hunbounded
  obtain ⟨t, hcheck, htcfg⟩ := checkSanity_of_sane (keys := some ⟨key⟩) hunbounded hsane hfile
  rw [← htcfg] at hunbounded hfits houter hinflate hinner
  obtain ⟨u, hucfg, -, hlayer⟩ := decryptOuterLayer_of_decrypted (s := t) (o := ⟨some ⟨key⟩, .sanityChecked c⟩) rfl rfl hsane
    (hfits _) (hfits _) houter
  rw [← hucfg] at hunbounded hinflate hinner
  obtain ⟨w, hpayload, hwcfg⟩ := inflatePayload_of_unbounded hunbounded hinflate
  rw [← hwcfg] at hunbounded hinner
  obtain ⟨v, hdocument⟩ := decryptDocument_of_ok hunbounded hinner
  refine ⟨v, ?_⟩
  rw [hpayload] at hlayer
  simp only [hostDecode, setOuterKey, HostObject.fromFile, Except.bind, hcheck, hlayer, decryptInnerLayer, Stage.container,
    Stage.outerPlaintext, onlyIfSane_of_sane hsane, hdocument, takeDocument]

/-- The host's encoding, layer by layer (R188, R189, R197). -/
theorem hostEncode_of_layers (hunbounded : s.cfg.bufMax = none) (hchars : ∀ x ∈ document, x < 2 ^ s.cfg.charW)
    (hinner : encryptResult s.cfg (innerPlainBytes document) innerKey.toList = .ok buffer)
    (houter : encryptResult s.cfg (outerPlainBytes s.cfg buffer (bytesBe32 (crcOf buffer))) key.toList = .ok cipher) :
    ∃ u, hostEncode key document s = .ok (containerFile (outerContainer s.cfg buffer cipher), u) := by
  obtain ⟨t, ht, htcfg⟩ := encryptInner_of_ok hunbounded hchars hinner
  rw [← htcfg] at hunbounded houter
  obtain ⟨u, hu⟩ := encryptOuter_of_ok hunbounded houter
  refine ⟨u, ?_⟩
  rw [htcfg] at hu
  simp only [hostEncode, saveDocument, refreshOuterKey, ht, hu, Except.bind, takeFile, Stage.container]

end

/-! ## The statements -/

/-- Settles O53: the padding is `4 - c mod 4` bytes, at least one. -/
theorem paddedLengthIsTheNextMultiple : Obligations.PaddedLengthIsTheNextMultiple := by
  unfold Obligations.PaddedLengthIsTheNextMultiple
  intro c
  rw [outerPadding_length, paddedLength]
  exact ⟨by omega, by omega, fun m hm hlt => by omega, rfl⟩

/-- Settles O55: the round trip of the cipher on whole words, of which there are always two, and an inflater that stops where the stream
ends. -/
theorem outerLayerComesBack : Obligations.OuterLayerComesBack := by
  unfold Obligations.OuterLayerComesBack
  intro cfg buffer checksum key hsum hk
  obtain ⟨cipher, hencrypt, hdecrypt, -⟩ := decryptResult_encryptResult_outer cfg buffer hsum hk
  obtain ⟨left, hinflate⟩ := inflateWrapped_outerPlainBytes cfg buffer checksum
  exact ⟨cipher, _, hencrypt, hdecrypt, inflateResult_of_some hinflate⟩

/-- Settles O59: both layers come back as functions of their bytes, and the host's operations compute these functions. -/
theorem documentComesBack : Obligations.DocumentComesBack := by
  unfold Obligations.DocumentComesBack
  intro md5 suffix document deviceId k s t hkey hcfg hunbounded hne hchars hlen hd1
  have hkeyLen (key : Key) : 16 ≤ key.toList.length := key.length_toList.ge
  obtain ⟨buffer, hinner, hinner', hbuffer⟩ := decryptResult_encryptResult_inner (hkeyLen innerKey) hd1
  obtain ⟨cipher, houter, houter', hcipher⟩ :=
    decryptResult_encryptResult_outer s.cfg buffer (bytesBe32_length (crcOf buffer)) (hkeyLen k)
  obtain ⟨left, hinflate⟩ := inflateWrapped_outerPlainBytes s.cfg buffer (bytesBe32 (crcOf buffer))
  obtain ⟨u, hencode⟩ := hostEncode_of_layers hunbounded hchars hinner houter
  refine ⟨_, u, by rw [codecEncode, keyOrError_of_some hkey]; exact hencode, fun hfile => ?_⟩
  have hsane : sanityCheck (outerContainer s.cfg buffer cipher) = true := by
    have hpos : 0 < document.length := List.length_pos_of_ne_nil hne
    have hpayload : 16 + cipher.length < 2 ^ 32 := containerFile_length (outerContainer s.cfg buffer cipher) ▸ hfile
    rw [innerPlainBytes_length] at hbuffer
    rw [paddedLength] at hcipher
    exact sanityCheck_outerContainer (by omega) (by omega) (by omega) (by omega)
  rw [codecDecode, keyOrError_of_some hkey, ← bytesToAscii_innerPlainBytes]
  rw [hcfg] at hunbounded houter' hinflate hinner'
  exact hostDecode_of_layers hunbounded hsane hfile houter' hinflate hinner'

end Sys2Proof.Machine
end

section
/-! SUPPORT. The two ways a write to `CMD` ends, told as the frame of a fault and of a success (60_exceptions.md R214, R215), and `STICKY` along
a script of host actions (R217). -/

namespace Sys2Proof.Machine

/-! ## The end of a write to `CMD` -/

section
variable {s t u : State} {c : Word} {item : ResultItem}

/-- Everything a write to `CMD` can leave behind: a fault taken, `IllegalCommand` among them, or the result of the command that the value
selects and the completion (R51, R53, R214, R215). -/
theorem issueCommand_endsWith (h : issueCommand c s = .next t) :
    (∃ f, t = takeFault f (s.setCmd c)) ∨
      ∃ i u, decode c = .ok i ∧ (resultItem i).Written (s.setCmd c) u ∧ t = complete u := by
  cases hc : decode c with
  | ok i =>
    rw [issueCommand_of_decode_ok hc] at h
    obtain hfault | ⟨u, hu, ht⟩ := exec_endsWith h
    · exact .inl hfault
    · exact .inr ⟨i, u, rfl, hu, ht⟩
  | error e =>
    rw [issueCommand_of_decode_error hc] at h
    cases h
    exact .inl ⟨.illegalCommand, rfl⟩

/-- `u` holds what `s` holds in every item and parameter that is neither `item` nor part of `CMD` and `STATUS` (R52, column "Writes"). -/
structure KeepsAllBut (item : ResultItem) (s u : State) : Prop where
  inBuf : u.inBuf = s.inBuf
  keyBuf : u.keyBuf = s.keyBuf
  offset : u.offset = s.offset
  cfg : u.cfg = s.cfg
  script : u.script = s.script
  outBuf : item ≠ .out → u.outBuf = s.outBuf
  wrdBuf : item ≠ .wrd → u.wrdBuf = s.wrdBuf
  txtBuf : item ≠ .txt → u.txtBuf = s.txtBuf
  value : item ≠ .value → u.value = s.value

theorem ResultItem.Written.keepsAllBut (hu : item.Written s u) : KeepsAllBut item s u := by
  cases item <;> obtain ⟨_, rfl⟩ := hu <;> constructor <;> simp

end

/-! ## `STICKY` along a script -/

section
variable {s t u : State} {a : HostAction} {as : List HostAction} {c : Word}

theorem ranClean_iff : ranClean s = true ↔ s.sticky = false := by simp [ranClean]

/-- After a command `STICKY` is clear exactly where it was clear before and the command succeeded (R15). -/
theorem issueCommand_ranClean_iff (h : issueCommand c s = .next t) :
    ranClean t = true ↔ ranClean s = true ∧ t.code = 0#8 := by
  rw [ranClean_iff, ranClean_iff, (issueCommand_describesCommand h).sticky]
  simp

/-- Only a command or a reset touches `STICKY` (R15, R240). -/
theorem perform_keeps_sticky (h : perform a s = .next t) (hcmd : ∀ c, a ≠ .writeCmd c) (hreset : a ≠ .reset) :
    t.sticky = s.sticky := by
  cases a with
  | writeIn _ | writeKey _ | writeWrd _ | copyOutToIn _ | appendIn _ | copyOutToKey =>
    obtain ⟨-, rfl⟩ := hostReplace_next.1 h
    rfl
  | writeTxt x =>
    obtain ⟨-, rfl⟩ := hostReplaceTxt_next.1 h
    rfl
  | writeOffset _ | writeValue _ | writeStatus _ => cases h; rfl
  | writeCmd c => exact absurd rfl (hcmd c)
  | reset => exact absurd rfl hreset

/-- What one action that is no reset does to `STICKY`: it stays clear unless the action is a command that faults. -/
theorem perform_ranClean_iff (h : perform a s = .next t) (hreset : a ≠ .reset) :
    ranClean t = true ↔ ranClean s = true ∧ ∀ c, a = .writeCmd c → t.code = 0#8 := by
  by_cases hcmd : ∃ c, a = .writeCmd c
  · obtain ⟨c, rfl⟩ := hcmd
    rw [issueCommand_ranClean_iff h]
    exact and_congr_right fun _ => ⟨fun hcode _ _ => hcode, fun hall => hall c rfl⟩
  · have hno : ∀ c, a ≠ .writeCmd c := not_exists.1 hcmd
    rw [ranClean_iff, ranClean_iff, perform_keeps_sticky h hno hreset]
    exact (and_iff_left fun c hc => absurd hc (hno c)).symm

/-- A script that ends in a state passes through the state that its first action leaves. -/
theorem runActions_cons_next : runActions (a :: as) s = .next t ↔ ∃ u, perform a s = .next u ∧ runActions as u = .next t := by
  rw [runActions]
  cases perform a s <;> simp

/-- Every command of the script `as`, run from `s`, shows the code of success right after it: each is the last action of a part of the
script that begins where the script does. -/
def CommandsSucceed (as : List HostAction) (s : State) : Prop :=
  ∀ (pre post : List HostAction) (c : Word) (u : State), as = pre ++ .writeCmd c :: post →
    runActions (pre ++ [.writeCmd c]) s = .next u → u.code = 0#8

theorem commandsSucceed_nil (s : State) : CommandsSucceed [] s := by
  intro pre post c u has
  cases pre <;> cases has

/-- The commands of a script are its first action, where that is one, and the commands of the rest run from where the first one led. -/
theorem commandsSucceed_cons_iff (h : perform a s = .next u) :
    CommandsSucceed (a :: as) s ↔ (∀ c, a = .writeCmd c → u.code = 0#8) ∧ CommandsSucceed as u := by
  constructor
  · intro hall
    refine ⟨fun c hc => ?first, fun pre post c v has hrun => ?rest⟩
    case first =>
      subst hc
      exact hall [] as c u rfl (runActions_cons_of_next h [])
    case rest =>
      subst has
      exact hall (a :: pre) post c v rfl ((runActions_cons_of_next h _).trans hrun)
  · rintro ⟨hfirst, hrest⟩ pre post c v has hrun
    cases pre with
    | nil =>
      obtain ⟨rfl, rfl⟩ := List.cons.inj has
      rw [List.nil_append, runActions_cons_of_next h] at hrun
      cases hrun
      exact hfirst c rfl
    | cons b pre =>
      obtain ⟨rfl, rfl⟩ := List.cons.inj has
      rw [List.cons_append, runActions_cons_of_next h] at hrun
      exact hrest pre post c v rfl hrun

/-- R217, action by action along the script. -/
theorem runActions_ranClean_iff (hreset : HostAction.reset ∉ as) (h : runActions as s = .next t) :
    ranClean t = true ↔ ranClean s = true ∧ CommandsSucceed as s := by
  induction as generalizing s with
  | nil =>
    cases h
    exact (and_iff_left (commandsSucceed_nil _)).symm
  | cons a as ih =>
    obtain ⟨ha, has⟩ := List.ne_and_not_mem_of_not_mem_cons hreset
    obtain ⟨u, hfirst, hrest⟩ := runActions_cons_next.1 h
    rw [ih has hrest, perform_ranClean_iff hfirst ha.symm, commandsSucceed_cons_iff hfirst, and_assoc]

end

/-! ## The statements -/

/-- Settles O14: of the two ways a write to `CMD` ends, the one with a non-zero code is a fault taken. -/
theorem faultChangesOnlyStatusAndCmd : Obligations.FaultChangesOnlyStatusAndCmd := by
  unfold Obligations.FaultChangesOnlyStatusAndCmd
  intro c s t h hcode
  obtain ⟨f, rfl⟩ | ⟨i, u, -, -, rfl⟩ := issueCommand_endsWith h
  · exact ⟨rfl, f, rfl⟩
  · exact absurd (complete_code u) hcode

/-- Settles O15: of the two ways a write to `CMD` ends, the one with code 0 is a completion, and its result is the item of its row. -/
theorem successChangesOnlyTheResult : Obligations.SuccessChangesOnlyTheResult := by
  unfold Obligations.SuccessChangesOnlyTheResult
  intro c s t h hcode
  obtain ⟨f, rfl⟩ | ⟨i, u, hi, hu, rfl⟩ := issueCommand_endsWith h
  · exact absurd hcode (causeCode_ne_ok f)
  · obtain ⟨hcmd, hsticky⟩ := hu.cmd_sticky
    obtain ⟨hin, hkey, hoffset, hcfg, hscript, hout, hwrd, htxt, hvalue⟩ := hu.keepsAllBut
    exact ⟨i, hi, hcmd, complete_valid u, hsticky, hin, hkey, hoffset, hcfg, hscript, hout, hwrd, htxt, hvalue⟩

/-- Settles O10, by induction on the script. -/
theorem stickyTellsWhetherAScriptRanClean : Obligations.StickyTellsWhetherAScriptRanClean := by
  unfold Obligations.StickyTellsWhetherAScriptRanClean
  exact fun _ _ _ hreset h => runActions_ranClean_iff hreset h

end Sys2Proof.Machine
end

section
/-! SUPPORT. Which command can raise what (60_exceptions.md R211): no other fault than those of its list, each of them from some state, and
none from the cipher on two words or more. -/

namespace Sys2Proof.Machine

/-! ## No other fault than the listed ones -/

section
variable {s t : State} {own : List Cause} {long : Bool}

/-- The code a command shows is that of success, of one of the faults `own`, or, where `long` allows it and the buffers are bounded, of
`Overflow` (R211). -/
def CodeWithin (own : List Cause) (long : Bool) (s t : State) : Prop :=
  t.code = 0#8 ∨ (∃ f ∈ own, t.code = causeCode f) ∨ (long = true ∧ s.cfg.bufMax ≠ none ∧ t.code = causeCode .overflow)

theorem Config.bufMax_ne_none_of_not_fits {cfg : Config} {n : Nat} (h : cfg.fits n = false) : cfg.bufMax ≠ none := by
  intro hunbounded
  rw [Config.fits_of_unbounded hunbounded n] at h
  cases h

/-- A command for a buffer shows no other code, where its result faults with `own` alone and, unless `long` allows more, fits. -/
theorem BufferEnd.codeWithin {α : Type} {put : State → List α → State} {r : Except Cause (List α)} (h : BufferEnd put r s t)
    (hown : ∀ f, r = .error f → f ∈ own) (hlonger : long = true ∨ ∀ v, r = .ok v → s.cfg.fits v.length = true) :
    CodeWithin own long s t := by
  obtain ⟨f, hr, rfl⟩ | ⟨v, hr, hlong, rfl⟩ | ⟨v, -, -, rfl⟩ := h
  · exact .inr (.inl ⟨f, hown f hr, rfl⟩)
  · have hallowed : long = true := hlonger.resolve_right fun hfits => by simp [hfits v hr] at hlong
    exact .inr (.inr ⟨hallowed, Config.bufMax_ne_none_of_not_fits hlong, rfl⟩)
  · exact .inl rfl

/-- A result of any length, computed without a fault: `Overflow` is the only code of a fault. -/
theorem BufferEnd.codeWithin_of_ok {α : Type} {put : State → List α → State} {v : List α} (h : BufferEnd put (.ok v) s t) :
    CodeWithin own true s t :=
  h.codeWithin nofun (.inl rfl)

/-! ## The results that can fault -/

section
variable {rounds : List Word → List Word → List Word} {cfg : Config} {data key : List Byte}

theorem cipherResult_error {f : Cause} (h : cipherResult rounds cfg data key = .error f) : f = .keyTooShort ∨ f = .zeroWords := by
  obtain ⟨-, hr⟩ | ⟨-, -, hr⟩ | ⟨-, -, -, hr⟩ | ⟨-, -, -, -, hr⟩ | ⟨-, -, -, -, hr⟩ | ⟨-, -, hr⟩ :=
    cipherResult_cases cfg rounds data key <;> cases hr.symm.trans h
  · exact .inl rfl
  · exact .inr rfl
  · exact .inr rfl

end

theorem execCipher_codeWithin {rounds : Config → List Word → List Word → List Word} (hwf : Memory.wf s = true)
    (hlen : ∀ g w, (rounds s.cfg g w).length = w.length) (h : execCipher rounds s = .next t) :
    CodeWithin [.keyTooShort, .zeroWords] long s t :=
  (bufferEnd_of_finishOut h).codeWithin (fun f hf => by simpa using cipherResult_error hf)
    (.inr fun _ hout => fits_of_le_inBuf hwf (cipherResult_length_le hlen hout))

theorem inflateResult_error {w : DeflateWrap} {b : List Byte} {f : Cause} (h : inflateResult w b = .error f) :
    f = .malformedStream := by
  cases hw : inflateWrapped w b with
  | none => exact (Except.error.inj ((inflateResult_of_none hw).symm.trans h)).symm
  | some p => cases (inflateResult_of_some hw).symm.trans h

theorem hexDecResult_error {x : List Nat} {f : Cause} (h : hexDecResult x = .error f) : f = .badDigit := by
  cases hx : hexDecode x with
  | none => exact (Except.error.inj ((hexDecResult_of_none hx).symm.trans h)).symm
  | some b => cases (hexDecResult_eq_ok_iff.2 hx).symm.trans h

/-- Each command within its list (R211). -/
theorem exec_codeWithin {i : Instr} (hwf : Memory.wf s = true) (h : exec i s = .next t) :
    CodeWithin (ownFaults i) (mayOverflow i) s t := by
  cases i with
  | xxteaEnc => exact execCipher_codeWithin hwf (encryptWords_length s.cfg) (exec_xxteaEnc_eq_execCipher s ▸ h)
  | xxteaDec => exact execCipher_codeWithin hwf (decryptWords_length s.cfg) (exec_xxteaDec_eq_execCipher s ▸ h)
  | crc32 => exact (bufferEnd_of_finishOut (exec_crc32 s ▸ h)).codeWithin_of_ok
  | deflate => exact (bufferEnd_of_finishOut (exec_deflate s ▸ h)).codeWithin_of_ok
  | inflate =>
    exact (bufferEnd_of_finishOut (exec_inflate s ▸ h)).codeWithin (fun f hf => List.mem_singleton.2 (inflateResult_error hf))
      (.inl rfl)
  | parseU32le =>
    obtain hout | hin := Nat.lt_or_ge s.inBuf.length (s.offset.toNat + 4)
    · cases (exec_parseU32le_of_outOfRange hout).symm.trans h
      exact .inr (.inl ⟨.outOfRange, List.mem_singleton_self _, rfl⟩)
    · cases (exec_parseU32le_of_inRange hin).symm.trans h
      exact .inl rfl
  | writeU32le =>
    obtain hout | hin := Nat.lt_or_ge s.inBuf.length (s.offset.toNat + 4)
    · cases (exec_writeU32le_of_outOfRange hout).symm.trans h
      exact .inr (.inl ⟨.outOfRange, List.mem_singleton_self _, rfl⟩)
    · cases (exec_writeU32le_of_inRange (fits_of_le_inBuf hwf le_rfl) hin).symm.trans h
      exact .inl rfl
  | b2w =>
    cases (exec_b2w_of_fits (fits_of_le_inBuf hwf le_rfl)).symm.trans h
    exact .inl rfl
  | w2b => exact (bufferEnd_of_finishOut (exec_w2b s ▸ h)).codeWithin_of_ok
  | reorder =>
    cases (exec_reorder_of_fits (fits_of_le_inBuf hwf le_rfl)).symm.trans h
    exact .inl rfl
  | hexDec =>
    refine (bufferEnd_of_finishOut (exec_hexDec s ▸ h)).codeWithin (fun f hf => List.mem_singleton.2 (hexDecResult_error hf))
      (.inr fun b hb => fits_of_le_txtBuf hwf ?_)
    rw [hexDecode_length (hexDecResult_eq_ok_iff.1 hb)]
    omega
  | hexEnc => exact (bufferEnd_of_finishTxt (exec_hexEnc s ▸ h)).codeWithin_of_ok
  | a2b =>
    cases (exec_a2b_of_fits (fits_of_le_txtBuf hwf le_rfl)).symm.trans h
    exact .inl rfl
  | b2a =>
    cases (exec_b2a_of_fits (fits_of_le_inBuf hwf le_rfl)).symm.trans h
    exact .inl rfl

end

/-! ## Each listed fault from some state -/

section
variable {i : Instr} {f : Cause}

/-- Some state whose buffers hold what fits shows the fault. -/
def CanRaise (i : Instr) (f : Cause) : Prop := ∃ s t, Memory.wf s = true ∧ exec i s = .next t ∧ t.code = causeCode f

theorem canRaise_of_exec {s : State} (hwf : Memory.wf s = true) (h : exec i s = .next (takeFault f s)) : CanRaise i f :=
  ⟨s, takeFault f s, hwf, h, rfl⟩

/-- One byte in `IN`, under the default parameters. -/
def oneByteIn : State := State.reset.setIn [0#8]

/-- One byte is too little under a key that is long enough, and not even looked at under one that is not (R73). -/
theorem execCipher_oneByteIn (rounds : Config → List Word → List Word → List Word) :
    execCipher rounds oneByteIn = .next (takeFault .keyTooShort oneByteIn) ∧
    execCipher rounds (oneByteIn.setKey (List.replicate 16 0#8)) =
      .next (takeFault .zeroWords (oneByteIn.setKey (List.replicate 16 0#8))) :=
  ⟨execCipher_of_short_key (List.cons_ne_nil _ _) (by decide), execCipher_of_no_word (by decide) (by decide) (by decide)⟩

theorem canRaise_of_mem_ownFaults (h : f ∈ ownFaults i) : CanRaise i f := by
  cases i with
  | xxteaEnc =>
    obtain ⟨hkey, hwords⟩ := execCipher_oneByteIn encryptWords
    obtain rfl | rfl : f = .keyTooShort ∨ f = .zeroWords := by simpa [ownFaults] using h
    · exact canRaise_of_exec (by decide) hkey
    · exact canRaise_of_exec (by decide) hwords
  | xxteaDec =>
    obtain ⟨hkey, hwords⟩ := execCipher_oneByteIn decryptWords
    obtain rfl | rfl : f = .keyTooShort ∨ f = .zeroWords := by simpa [ownFaults] using h
    · exact canRaise_of_exec (by decide) hkey
    · exact canRaise_of_exec (by decide) hwords
  | inflate =>
    obtain rfl := List.mem_singleton.1 h
    exact canRaise_of_exec (s := State.reset) (by decide) (exec_inflate_of_malformed rfl)
  | parseU32le =>
    obtain rfl := List.mem_singleton.1 h
    exact canRaise_of_exec (s := State.reset) (by decide) (exec_parseU32le_of_outOfRange (by decide))
  | writeU32le =>
    obtain rfl := List.mem_singleton.1 h
    exact canRaise_of_exec (s := State.reset) (by decide) (exec_writeU32le_of_outOfRange (by decide))
  | hexDec =>
    obtain rfl := List.mem_singleton.1 h
    exact canRaise_of_exec (s := State.reset.setTxt [0x67, 0x67]) (by decide) (exec_hexDec_of_none rfl)
  | crc32 | deflate | b2w | w2b | reorder | hexEnc | a2b | b2a => cases h

/-- The machine after reset with buffers of `n` elements and streams without a wrapper. -/
def boundedReset (n : Nat) : State := State.resetWith { Config.default with bufMax := some n, deflateWrap := .raw }

/-- A block with the fixed codes: the literal 0, a copy of four bytes at distance 1, and the end of the block. -/
def shortRunStream : List Byte := [0x63#8, 0x00#8, 0x01#8, 0x00#8]

/-- Four bytes that inflate to five. -/
theorem inflateWrapped_shortRunStream : inflateWrapped .raw shortRunStream = some (List.replicate 5 0#8, []) := by decide +kernel

theorem canRaise_overflow (h : mayOverflow i = true) : CanRaise i .overflow := by
  cases i with
  | crc32 => exact canRaise_of_exec (s := boundedReset 0) (by decide) (exec_crc32_of_not_fits rfl)
  | deflate => exact canRaise_of_exec (s := boundedReset 0) (by decide) (exec_deflate_of_not_fits rfl)
  | inflate =>
    exact canRaise_of_exec (s := (boundedReset 4).setIn shortRunStream) (by decide)
      (exec_inflate_of_not_fits inflateWrapped_shortRunStream rfl)
  | w2b => exact canRaise_of_exec (s := (boundedReset 1).setWrd [0#32]) (by decide) (exec_w2b_of_not_fits rfl)
  | hexEnc => exact canRaise_of_exec (s := (boundedReset 1).setIn [0x10#8]) (by decide) (exec_hexEnc_of_not_fits rfl)
  | xxteaEnc | xxteaDec | parseU32le | writeU32le | b2w | reorder | hexDec | a2b | b2a => cases h

end

/-! ## The cipher on two words or more -/

theorem execCipher_succeeds {s t : State} {rounds : Config → List Word → List Word → List Word} (hwf : Memory.wf s = true)
    (hin : 8 ≤ s.inBuf.length) (hkey : 16 ≤ s.keyBuf.length) (hlen : ∀ g w, (rounds s.cfg g w).length = w.length)
    (h : execCipher rounds s = .next t) : t.code = 0#8 := by
  obtain ⟨out, hout, -, -⟩ := execCipher_of_two_words_le hwf hin hkey hlen
  cases hout.symm.trans h
  exact complete_code _

/-! ## The statement -/

/-- Settles O16: command by command the codes it can show, and for each listed fault a state that shows it. -/
theorem faultsOfEachCommand : Obligations.FaultsOfEachCommand := by
  unfold Obligations.FaultsOfEachCommand
  refine ⟨fun i s t hwf h => exec_codeWithin hwf h, fun i f hf => ?raised, fun s t hwf hin hkey h => ?cipher⟩
  case raised =>
    obtain hown | ⟨hover, rfl⟩ := hf
    · exact canRaise_of_mem_ownFaults hown
    · exact canRaise_overflow hover
  case cipher =>
    obtain henc | hdec := h
    · exact execCipher_succeeds hwf hin hkey (encryptWords_length s.cfg) (exec_xxteaEnc_eq_execCipher s ▸ henc)
    · exact execCipher_succeeds hwf hin hkey (decryptWords_length s.cfg) (exec_xxteaDec_eq_execCipher s ▸ hdec)

end Sys2Proof.Machine
end

section
/-! SUPPORT. What a host action leaves of `STICKY` and `VALID` (70_reset_and_hazards.md R240), and how a command ends (R242, R256; R214,
R215). -/

namespace Sys2Proof.Machine

section
variable {s t u : State}

/-! ## What only a reset clears -/

/-- From `s` to `t` neither `STICKY` nor `VALID` is cleared. -/
def KeepsStickyAndValid (s t : State) : Prop :=
  (s.sticky = true → t.sticky = true) ∧ (s.valid = true → t.valid = true)

/-- A buffer, `OFFSET` or `VALUE` is no part of `STATUS`. -/
theorem keepsStickyAndValid_of_eq (hsticky : t.sticky = s.sticky) (hvalid : t.valid = s.valid) : KeepsStickyAndValid s t :=
  ⟨hsticky.trans, hvalid.trans⟩

theorem hostReplace_keepsStickyAndValid {n : Nat} (h : hostReplace s n u = .next t) (hu : KeepsStickyAndValid s u) :
    KeepsStickyAndValid s t := by
  obtain ⟨-, rfl⟩ := hostReplace_next.1 h
  exact hu

/-- A command sets `VALID`, and `STICKY` accumulates (R15). -/
theorem issueCommand_keepsStickyAndValid {c : Word} (h : issueCommand c s = .next t) : KeepsStickyAndValid s t := by
  obtain ⟨-, hvalid, -, hsticky⟩ := issueCommand_describesCommand h
  refine ⟨fun hs => ?_, fun _ => hvalid⟩
  rw [hsticky, State.setCmd_sticky, hs, Bool.true_or]

theorem perform_keepsStickyAndValid {a : HostAction} (ha : a ≠ .reset) (h : perform a s = .next t) : KeepsStickyAndValid s t := by
  cases a with
  | writeIn | writeKey | writeWrd | copyOutToIn | appendIn | copyOutToKey =>
    exact hostReplace_keepsStickyAndValid h (keepsStickyAndValid_of_eq rfl rfl)
  | writeTxt =>
    obtain ⟨-, rfl⟩ := hostReplaceTxt_next.1 h
    exact keepsStickyAndValid_of_eq rfl rfl
  | writeOffset | writeValue | writeStatus =>
    cases h
    exact keepsStickyAndValid_of_eq rfl rfl
  | writeCmd => exact issueCommand_keepsStickyAndValid h
  | reset => exact absurd rfl ha

end

/-! ## The statements -/

/-- Settles O8: the next action is performed; a reset gives the reset state, any other action by cases on what it does. -/
theorem onlyResetClearsStickyAndValid : Obligations.OnlyResetClearsStickyAndValid := by
  unfold Obligations.OnlyResetClearsStickyAndValid
  refine ⟨fun s rest hscript => step_cons hscript, fun s t a rest hscript ha h => ?_⟩
  rw [step_cons hscript] at h
  exact perform_keepsStickyAndValid (s := s.setScript rest) ha h

/-- Settles O13: every command answers, and its end is a fault taken or a completion whose result is no part of `STATUS`. -/
theorem everyCommandEnds : Obligations.EveryCommandEnds := by
  unfold Obligations.EveryCommandEnds
  intro i s
  obtain ⟨t, h⟩ := exec_answers i s
  refine ⟨t, h, ?_⟩
  obtain ⟨c, rfl⟩ | ⟨u, hu, rfl⟩ := exec_endsWith h
  · exact ⟨takeFault_valid s c, .inr ⟨c, rfl⟩⟩
  · obtain ⟨-, hsticky⟩ := hu.cmd_sticky
    exact ⟨complete_valid u, .inl ⟨complete_code u, hsticky⟩⟩

end Sys2Proof.Machine
end

section
/-! SUPPORT. The fuel of the loops over the stream (70_reset_and_hazards.md R256; log entry 10). No function of the inflater gives bits back,
and each pass of a loop takes a bit or yields a code length; so a loop that starts with that measure as fuel ends before its fuel does. -/

namespace Sys2Proof.Machine

/-! ## A loop whose measure falls at each pass -/

/-- The one induction for the three loops: a loop started with the measure of its state as fuel answers the same with any more, where a pass
from a state of measure 0 changes nothing and any other pass goes on in a state of smaller measure only. -/
theorem loop_fuel_add {σ β : Type} {loop : Nat → σ → β} {good : σ → Prop} {measure : σ → Nat}
    (hzero : ∀ n s, good s → measure s = 0 → loop (n + 1) s = loop 0 s)
    (hpass : ∀ m n s, good s → (∀ s', good s' → measure s' < measure s → loop m s' = loop n s') → loop (m + 1) s = loop (n + 1) s)
    (k : Nat) {s : σ} (hs : good s) : loop (measure s + k) s = loop (measure s) s := by
  have hmore : ∀ n s, good s → measure s ≤ n → loop (n + 1) s = loop n s := by
    intro n
    induction n with
    | zero => exact fun s hs hle => hzero 0 s hs (Nat.le_zero.1 hle)
    | succ n ih => exact fun s hs hle => hpass (n + 1) n s hs fun s' hs' hlt => ih s' hs' (by omega)
  induction k with
  | zero => rfl
  | succ k ih => exact (hmore _ s hs (Nat.le_add_right _ k)).trans ih

section
variable {α β : Type} {f : BitReader → Option (α × BitReader)} {g g' : α → BitReader → Option (β × BitReader)} {r : BitReader}

theorem readThen_congr (h : ∀ v r1, f r = some (v, r1) → g v r1 = g' v r1) : readThen f g r = readThen f g' r := by
  cases hf : f r with
  | none => simp only [readThen, hf, Option.bind_none]
  | some p => rw [readThen_of_some hf, readThen_of_some hf, h p.1 p.2 hf]

theorem readThen_eq_none (h : ∀ v r1, f r = some (v, r1) → g v r1 = none) : readThen f g r = none := by
  refine Option.eq_none_iff_forall_ne_some.2 fun p hp => ?_
  obtain ⟨v, r1, hf, hg⟩ := readThen_eq_some_iff.1 hp
  cases (h v r1 hf).symm.trans hg

/-! ## Reading gives no bits back -/

/-- A reading function that, where it succeeds, leaves no more bits to read than there were. -/
def NeverRewinds (f : BitReader → Option (α × BitReader)) : Prop :=
  ∀ ⦃r r1 : BitReader⦄ ⦃v : α⦄, r.used < 8 → f r = some (v, r1) → r1.used < 8 ∧ bitsLeft r1 ≤ bitsLeft r

theorem NeverRewinds.of_eq {f g : BitReader → Option (α × BitReader)} (h : ∀ r, f r = g r) (hg : NeverRewinds g) :
    NeverRewinds f := funext h ▸ hg

theorem NeverRewinds.pure (v : α) : NeverRewinds fun r => some (v, r) := by
  intro r r1 w hu h
  cases h
  exact ⟨hu, le_rfl⟩

theorem NeverRewinds.fail : NeverRewinds fun _ => (none : Option (α × BitReader)) := by
  intro r r1 w hu h
  cases h

theorem NeverRewinds.then (hf : NeverRewinds f) (hg : ∀ v, NeverRewinds (g v)) : NeverRewinds (readThen f g) := by
  intro r r2 w hu h
  obtain ⟨v, r1, hfr, hgr⟩ := readThen_eq_some_iff.1 h
  obtain ⟨hu1, hle1⟩ := hf hu hfr
  obtain ⟨hu2, hle2⟩ := hg v hu1 hgr
  exact ⟨hu2, hle2.trans hle1⟩

theorem NeverRewinds.ite (c : Prop) [Decidable c] {f g : BitReader → Option (α × BitReader)} (hf : NeverRewinds f)
    (hg : NeverRewinds g) : NeverRewinds fun r => if c then f r else g r := by
  by_cases h : c
  · simpa only [if_pos h] using hf
  · simpa only [if_neg h] using hg

theorem NeverRewinds.elim (o : Option β) {g : β → BitReader → Option (α × BitReader)}
    (hg : ∀ v, NeverRewinds (g v)) : NeverRewinds fun r => o.elim none fun v => g v r := by
  cases o with
  | none => exact .fail
  | some v => exact hg v

/-- The bits up to the next byte boundary are skipped (R109). -/
theorem alignReader_takes (hu : r.used < 8) : (alignReader r).used < 8 ∧ bitsLeft (alignReader r) ≤ bitsLeft r := by
  unfold alignReader
  split
  · exact ⟨hu, le_rfl⟩
  · simp only [bitsLeft, List.length_tail]
    omega

theorem NeverRewinds.align (hf : NeverRewinds f) : NeverRewinds fun r => f (alignReader r) := by
  intro r r1 v hu h
  obtain ⟨hualign, hlealign⟩ := alignReader_takes hu
  obtain ⟨hu1, hle1⟩ := hf hualign h
  exact ⟨hu1, hle1.trans hlealign⟩

end

/-! ### The functions of the inflater -/

section
variable {lit dist : List CodeLevel} {out : List Byte}

theorem neverRewinds_readBits (n : Nat) : NeverRewinds (readBits n) := by
  intro r r1 v hu h
  obtain ⟨hu1, hleft, -⟩ := readBits_takes hu h
  exact ⟨hu1, by omega⟩

theorem neverRewinds_decodeSymbol (levels : List CodeLevel) (c : Nat) : NeverRewinds (decodeSymbol levels c) := by
  intro r r1 sym hu h
  obtain ⟨hu1, hlt⟩ := decodeSymbol_takes hu h
  exact ⟨hu1, hlt.le⟩

theorem neverRewinds_readBytes : ∀ n, NeverRewinds (readBytes n)
  | 0 => .pure []
  | n + 1 =>
    .of_eq (readBytes_succ · n) <| (neverRewinds_readBits 8).then fun v => (neverRewinds_readBytes n).then fun vs =>
      .pure (BitVec.ofNat 8 v :: vs)

theorem neverRewinds_readExtra (table : List (Nat × Nat)) (i : Nat) : NeverRewinds (readExtra table i) :=
  .of_eq (readExtra_eq · table i) <| .elim (table[i]?) fun row => (neverRewinds_readBits row.1).then fun v => .pure (row.2 + v)

theorem neverRewinds_readCopy (sym : Nat) : NeverRewinds fun r => readCopy dist sym r out :=
  .of_eq (readCopy_eq · out dist sym) <| (neverRewinds_readExtra lengthTable (sym - 257)).then fun len =>
    (neverRewinds_decodeSymbol dist 0).then fun t => (neverRewinds_readExtra distanceTable t).then fun d =>
      .ite (out.length < d) .fail (.pure (copyBack d len out))

theorem neverRewinds_inflateBody : ∀ fuel out, NeverRewinds fun r => inflateBody lit dist fuel r out
  | 0, _ => .fail
  | fuel + 1, out =>
    .of_eq (inflateBody_succ · out lit dist fuel) <| (neverRewinds_decodeSymbol lit 0).then fun sym =>
      .ite (sym < 256) (neverRewinds_inflateBody fuel _) <| .ite (sym = 256) (.pure out) <| .ite (sym ≤ 285)
        ((neverRewinds_readCopy sym).then fun out1 => neverRewinds_inflateBody fuel out1) .fail

/-- With the bits left as fuel. -/
theorem neverRewinds_inflateBody_bitsLeft : NeverRewinds fun r => inflateBody lit dist (bitsLeft r) r out :=
  fun r _ _ hu h => neverRewinds_inflateBody (bitsLeft r) out hu h

theorem neverRewinds_inflateStored : NeverRewinds fun r => inflateStored r out :=
  .of_eq (inflateStored_eq · out) <| .align <| (neverRewinds_readBits 16).then fun len => (neverRewinds_readBits 16).then fun nlen =>
    .ite (len ^^^ nlen ≠ 0xFFFF) .fail ((neverRewinds_readBytes len).then fun bytes => .pure (bytes.reverse ++ out))

theorem neverRewinds_readTriples : ∀ n, NeverRewinds (readTriples n)
  | 0 => .pure []
  | n + 1 => .of_eq (readTriples_succ · n) <| (neverRewinds_readBits 3).then fun v => (neverRewinds_readTriples n).then fun vs =>
      .pure (v :: vs)

theorem neverRewinds_expandLength (sym : Nat) (before : List Nat) : NeverRewinds (expandLength sym before) :=
  .of_eq (expandLength_eq · sym before) <| .ite (sym ≤ 15) (.pure [sym]) <|
    .ite (sym = 16)
      (.elim before.head? fun l => (neverRewinds_readBits 2).then fun v => .pure (List.replicate (3 + v) l)) <|
    .ite (sym = 17) ((neverRewinds_readBits 3).then fun v => .pure (List.replicate (3 + v) 0))
      ((neverRewinds_readBits 7).then fun v => .pure (List.replicate (11 + v) 0))

theorem neverRewinds_readLengths (code : List CodeLevel) (total : Nat) :
    ∀ fuel acc, NeverRewinds fun r => readLengths code total fuel r acc
  | 0, _ => .fail
  | fuel + 1, acc =>
    .of_eq (readLengths_succ · code total fuel acc) <| .ite (acc.length = total) (.pure acc) <|
      (neverRewinds_decodeSymbol code 0).then fun sym => (neverRewinds_expandLength sym acc).then fun ls =>
        .ite (total < acc.length + ls.length) .fail (neverRewinds_readLengths code total fuel (ls ++ acc))

theorem neverRewinds_readDynamicLengths (hlit hdist hclen : Nat) : NeverRewinds (readDynamicLengths hlit hdist hclen) :=
  .of_eq (readDynamicLengths_eq · hlit hdist hclen) <| .ite (286 < hlit ∨ 30 < hdist) .fail <|
    (neverRewinds_readTriples hclen).then fun vals => .ite (completeCode (placeCodeLengths vals) = true)
      ((neverRewinds_readLengths _ _ _ []).then fun acc => .elim (checkedCodes hlit acc) .pure) .fail

theorem neverRewinds_readDynamicHeader : NeverRewinds readDynamicHeader :=
  .of_eq readDynamicHeader_eq <| (neverRewinds_readBits 5).then fun hl => (neverRewinds_readBits 5).then fun hd =>
    (neverRewinds_readBits 4).then fun hc => neverRewinds_readDynamicLengths (hl + 257) (hd + 1) (hc + 4)

theorem neverRewinds_inflateBlock : ∀ btype, NeverRewinds fun r => inflateBlock btype r out
  | 0 => neverRewinds_inflateStored
  | 1 => neverRewinds_inflateBody_bitsLeft
  | 2 => .of_eq (inflateDynamic_eq · out) <| neverRewinds_readDynamicHeader.then fun _ => neverRewinds_inflateBody_bitsLeft
  | _ + 3 => .fail

end

/-! ## The loops -/

/-- Each pass of the loop over symbols takes a bit (R114). -/
theorem inflateBody_fuel_add (lit dist : List CodeLevel) (k : Nat) {r : BitReader} (out : List Byte) (hu : r.used < 8) :
    inflateBody lit dist (bitsLeft r + k) r out = inflateBody lit dist (bitsLeft r) r out := by
  refine loop_fuel_add (loop := fun n (s : BitReader × List Byte) => inflateBody lit dist n s.1 s.2) (good := fun s => s.1.used < 8)
    (measure := fun s => bitsLeft s.1) ?zero ?pass k (s := (r, out)) hu
  case zero =>
    rintro n ⟨r, out⟩ (hu : r.used < 8) (hnone : bitsLeft r = 0)
    refine (inflateBody_succ r out lit dist n).trans (readThen_eq_none fun sym r1 hsym => ?_)
    obtain ⟨-, hlt⟩ := decodeSymbol_takes hu hsym
    omega
  case pass =>
    rintro m n ⟨r, out⟩ (hu : r.used < 8) ih
    simp only [inflateBody_succ]
    refine readThen_congr fun sym r1 hsym => ?_
    obtain ⟨hu1, hlt1⟩ := decodeSymbol_takes hu hsym
    split_ifs
    · exact ih (r1, _) hu1 hlt1
    · rfl
    · refine readThen_congr fun out1 r2 hcopy => ?_
      obtain ⟨hu2, hle2⟩ := neverRewinds_readCopy sym hu1 hcopy
      exact ih (r2, out1) hu2 (hle2.trans_lt hlt1)
    · rfl

/-- Each pass of the loop over blocks takes the bit `BFINAL` (R108). -/
theorem inflateBlocks_fuel_add (k : Nat) {r : BitReader} (out : List Byte) (hu : r.used < 8) :
    inflateBlocks (bitsLeft r + k) r out = inflateBlocks (bitsLeft r) r out := by
  refine loop_fuel_add (loop := fun n (s : BitReader × List Byte) => inflateBlocks n s.1 s.2) (good := fun s => s.1.used < 8)
    (measure := fun s => bitsLeft s.1) ?zero ?pass k (s := (r, out)) hu
  case zero =>
    rintro n ⟨r, out⟩ (hu : r.used < 8) (hnone : bitsLeft r = 0)
    refine (inflateBlocks_succ r out n).trans (readThen_eq_none fun bfinal r1 hbit => ?_)
    obtain ⟨-, htake⟩ := readBit_takes hu hbit
    omega
  case pass =>
    rintro m n ⟨r, out⟩ (hu : r.used < 8) ih
    simp only [inflateBlocks_succ]
    refine readThen_congr fun bfinal r1 hbit => readThen_congr fun btype r2 hbits => readThen_congr fun out1 r3 hblock => ?_
    obtain ⟨hu1, htake⟩ := readBit_takes hu hbit
    obtain ⟨hu2, hle2⟩ := neverRewinds_readBits 2 hu1 hbits
    obtain ⟨hu3, hle3⟩ := neverRewinds_inflateBlock btype hu2 hblock
    split_ifs
    · rfl
    · exact ih (r3, out1) hu3 (show bitsLeft r3 < bitsLeft r by omega)

/-- A code-length symbol stands for at least one length (R112). -/
theorem expandLength_length_pos {sym : Nat} {before ls : List Nat} {r r1 : BitReader} (h : expandLength sym before r = some (ls, r1)) :
    0 < ls.length := by
  rw [expandLength_eq] at h
  split_ifs at h with hlength hrepeat hzeros
  · cases h
    exact Nat.one_pos
  · cases before with
    | nil => cases h
    | cons last before =>
      rw [List.head?_cons, Option.elim_some] at h
      obtain ⟨v, r2, -, hls⟩ := readThen_eq_some_iff.1 h
      cases hls
      rw [List.length_replicate]
      omega
  all_goals
    obtain ⟨v, r2, -, hls⟩ := readThen_eq_some_iff.1 h
    cases hls
    rw [List.length_replicate]
    omega

/-- Each pass of the loop over code lengths yields a length, and past the end it fails (R112). -/
theorem readLengths_fuel_add (code : List CodeLevel) (total k : Nat) (r : BitReader) (acc : List Nat) :
    readLengths code total (total + 1 - acc.length + k) r acc = readLengths code total (total + 1 - acc.length) r acc := by
  refine loop_fuel_add (loop := fun n (s : BitReader × List Nat) => readLengths code total n s.1 s.2) (good := fun _ => True)
    (measure := fun s => total + 1 - s.2.length) ?zero ?pass k (s := (r, acc)) trivial
  case zero =>
    rintro n ⟨r, acc⟩ - (hpast : total + 1 - acc.length = 0)
    refine (readLengths_succ r code total n acc).trans ((if_neg (by omega)).trans ?_)
    exact readThen_eq_none fun sym r1 _ => readThen_eq_none fun ls r2 _ => if_pos (by omega)
  case pass =>
    rintro m n ⟨r, acc⟩ - ih
    simp only [readLengths_succ]
    split_ifs with hdone
    · rfl
    · refine readThen_congr fun sym r1 _ => readThen_congr fun ls r2 hls => ?_
      have hpos := expandLength_length_pos hls
      split_ifs
      · rfl
      · exact ih (r2, ls ++ acc) trivial (by simp only [List.length_append]; omega)

/-! ## The statement -/

/-- Settles O39: loop by loop, each with the measure that falls at each of its passes. -/
theorem bitsLeftBoundEveryLoop : Obligations.BitsLeftBoundEveryLoop := by
  unfold Obligations.BitsLeftBoundEveryLoop
  exact ⟨fun k _ out hu => inflateBlocks_fuel_add k out hu, fun lit dist k _ out hu => inflateBody_fuel_add lit dist k out hu,
    readLengths_fuel_add⟩

end Sys2Proof.Machine
end
